-- ==== Sys2Proof/Config.lean ====
section
/-! DEFINITION. The implementation parameters of 00_scope.md section 3 (R5 to R8), each a plain number.

The ranges of R6 and R8 (words, addresses) and the radix 100 stand as numerals in the definitions whose rules write
them so: `validWord`, `operandInRange`, `addressInMemory`, `opcodeOf`. The spec leaves no value undefined
(92_eei_decisions.md settles every open point), so no free value stands here. -/

namespace Sys2Proof.Config

/-- `MEM_SIZE`, the number of memory words (R5). -/
abbrev memSize : Nat := 100

/-- `SENTINEL`, the loader's end-of-program value (R7). -/
abbrev sentinel : Int := -99999

/-- `IC_RESET`, at reset and at run start (R8; the source's "starts at 0"). -/
abbrev icReset : Int := 0

/-- `ACC_RESET` (R8, the spec's decision D4; log entry 6: unsafe). -/
abbrev accReset : Int := 0

/-- `IR_RESET` (R8, the spec's decision D4; log entry 6). -/
abbrev irReset : Int := 0

/-- `OPC_RESET` (R8, the spec's decision D4; log entry 6). -/
abbrev opcReset : Int := 0

/-- `OPR_RESET` (R8, the spec's decision D4; log entry 6). -/
abbrev oprReset : Int := 0

end Sys2Proof.Config
end

