-- ==== Sys2Proof/Word.lean ====
section
/-! DEFINITION. The machine's only data unit, the word: an integer in [-9999, 9999] (00_scope.md R6, R9).

Every register, memory cell and port value is the mathematical integer it denotes (R9), so a word is held as an `Int`,
and its range is the predicate `validWord`, which every value-producing operation checks (10_state.md R22). -/

namespace Sys2Proof

/-- `validWord(w)` of R6: the integer `w` is a word. -/
abbrev validWord (w : Int) : Prop := -9999 ≤ w ∧ w ≤ 9999

end Sys2Proof
end

