-- ==== Sys2Proof/Syntax.lean ====
section
/-! DEFINITION. The instruction set: the twelve operations of 30_encoding.md R57 and the explicit unmapped variant of
R58, one constructor for each row of spec/opcode_table.json. -/

namespace Sys2Proof

/-- One instruction. `n` is the decoded operand, an absolute address (R60); the operand of `write` and `halt` is
decoded and ignored (R59). `unmapped` keeps its whole word, since every word outside the table is one (R88). -/
inductive Instr where
  /-- READ nn, opcode 10 (41_io.md R74). -/
  | read (n : Int)
  /-- WRITE nn, opcode 11 (41_io.md R75). -/
  | write (n : Int)
  /-- LOAD nn, opcode 20 (42_load_store.md R76). -/
  | load (n : Int)
  /-- STORE nn, opcode 21 (42_load_store.md R77). -/
  | store (n : Int)
  /-- ADD nn, opcode 30 (43_arithmetic.md R80). -/
  | add (n : Int)
  /-- SUB nn, opcode 31 (43_arithmetic.md R81). -/
  | sub (n : Int)
  /-- DIV nn, opcode 32 (43_arithmetic.md R82). -/
  | div (n : Int)
  /-- MUL nn, opcode 33 (43_arithmetic.md R83). -/
  | mul (n : Int)
  /-- BR nn, opcode 40 (44_control.md R84). -/
  | br (n : Int)
  /-- BRNEG nn, opcode 41 (44_control.md R85). -/
  | brneg (n : Int)
  /-- BRZERO nn, opcode 42 (44_control.md R86). -/
  | brzero (n : Int)
  /-- HALT nn, opcode 43 (44_control.md R87). -/
  | halt (n : Int)
  /-- Any word whose opcode is not in the table (44_control.md R88). -/
  | unmapped (w : Int)
  deriving DecidableEq, Repr

end Sys2Proof
end

