-- ==== Sys2Proof/WellFormed.lean ====
section
/-! DEFINITION. Which instruction terms stand for a word: an operand is two decimal digits (30_encoding.md R53, R56),
and an unmapped word is one of the ranges that 44_control.md R88 lists. -/

namespace Sys2Proof

/-- A two-digit operand: an integer in [0, 99] (R53, R56). -/
abbrev operandInRange (n : Int) : Prop := 0 ≤ n ∧ n ≤ 99

/-- The words of R88, as that rule lists them: every negative word, 0 to 999, 1200 to 1999, 2200 to 2999,
3400 to 3999 and 4400 to 9999. Written from the list, not from the decoder. -/
abbrev unmappedWord (w : Int) : Prop :=
  (-9999 ≤ w ∧ w < 0) ∨ (0 ≤ w ∧ w ≤ 999) ∨ (1200 ≤ w ∧ w ≤ 1999) ∨ (2200 ≤ w ∧ w ≤ 2999) ∨
    (3400 ≤ w ∧ w ≤ 3999) ∨ (4400 ≤ w ∧ w ≤ 9999)

/-- The instruction stands for exactly one word. -/
def wellFormed (i : Instr) : Bool :=
  match i with
  | .read n => decide (operandInRange n)
  | .write n => decide (operandInRange n)
  | .load n => decide (operandInRange n)
  | .store n => decide (operandInRange n)
  | .add n => decide (operandInRange n)
  | .sub n => decide (operandInRange n)
  | .div n => decide (operandInRange n)
  | .mul n => decide (operandInRange n)
  | .br n => decide (operandInRange n)
  | .brneg n => decide (operandInRange n)
  | .brzero n => decide (operandInRange n)
  | .halt n => decide (operandInRange n)
  | .unmapped w => decide (unmappedWord w)

end Sys2Proof
end

