-- ==== Sys2Proof/Decode.lean ====
section
/-! DEFINITION. The instruction decoder of 30_encoding.md (R54, R57 to R59) and, after it, the encoder (R62). -/

namespace Sys2Proof

/-- Integer division truncating toward zero, by the formula of 00_scope.md R11. No rule divides by 0: DIV tests the
divisor first (R82). -/
def tdiv (a b : Int) : Int := a.sign * b.sign * ((a.natAbs / b.natAbs : Nat) : Int)

/-- The remainder that belongs to `tdiv` (00_scope.md R11). -/
def trem (a b : Int) : Int := a - b * tdiv a b

/-- The opcode of a word: `OPC <- tdiv(IR, 100)` (R54). -/
def opcodeOf (w : Int) : Int := tdiv w 100

/-- The operand of a word: `OPR <- trem(IR, 100)` (R54; for negative words the spec's decision D5, log entry 7). -/
def operandOf (w : Int) : Int := trem w 100

/-- The thirteen operations of R58. -/
inductive Op where
  | read | write | load | store | add | sub | div | mul | br | brneg | brzero | halt | unmapped
  deriving DecidableEq, Repr

/-- One row of the opcode table: an opcode and its operation. -/
structure OpcodeRow where
  /-- The value of OPC. -/
  opc : Int
  /-- The operation it names. -/
  op : Op
  deriving DecidableEq, Repr

/-- The opcode table of R57, row by row. -/
def opcodeTable : List OpcodeRow :=
  [⟨10, .read⟩, ⟨11, .write⟩, ⟨20, .load⟩, ⟨21, .store⟩] ++
  [⟨30, .add⟩, ⟨31, .sub⟩, ⟨32, .div⟩, ⟨33, .mul⟩] ++
  [⟨40, .br⟩, ⟨41, .brneg⟩, ⟨42, .brzero⟩, ⟨43, .halt⟩]

/-- `decodeOp` of R58: the operation of an opcode, `unmapped` for every value outside the table. -/
def decodeOp (opc : Int) : Op :=
  match opcodeTable.find? (fun r => r.opc == opc) with
  | some r => r.op
  | none => .unmapped

/-- Why the decoder rejects an integer. -/
inductive DecodeError where
  /-- The integer is outside [-9999, 9999], so it is no word and no instruction (R52). -/
  | notAWord
  deriving DecidableEq, Repr

/-- The instruction that an operation makes with the word it was read from (R54: the operand is used unchanged). -/
def instrOf (op : Op) (w : Int) : Instr :=
  match op with
  | .read => .read (operandOf w)
  | .write => .write (operandOf w)
  | .load => .load (operandOf w)
  | .store => .store (operandOf w)
  | .add => .add (operandOf w)
  | .sub => .sub (operandOf w)
  | .div => .div (operandOf w)
  | .mul => .mul (operandOf w)
  | .br => .br (operandOf w)
  | .brneg => .brneg (operandOf w)
  | .brzero => .brzero (operandOf w)
  | .halt => .halt (operandOf w)
  | .unmapped => .unmapped w

/-- The decoder, total on the integers. Every word is exactly one instruction (R52, R59, R61); an integer that is no
word is rejected by name. -/
def decode (w : Int) : Except DecodeError Instr :=
  if validWord w then .ok (instrOf (decodeOp (opcodeOf w)) w) else .error .notAWord

/-- The integer that a pattern of at most 16 bits stands for when the host hands the decoder a word as a natural
number: two's complement in 16 bits, so that negative words can be written too. A word has no bits in this machine
(00_scope.md R9): DESIGN CHOICE, log entry 2. -/
def wordOfBits (w : Nat) : Int :=
  if 32768 ≤ w ∧ w < 65536 then (w : Int) - 65536 else (w : Int)

/-- What the decoder reads from a table row's word given as a natural number. The bits above `nbits` are 0, so `nbits`
adds nothing to `w`. -/
def decodeTableWord (_nbits w : Nat) : Option Instr :=
  match decode (wordOfBits w) with
  | .ok i => some i
  | .error _ => none

/-- `100 * OPC + nn`, the word of `MNEMONIC nn` (R62). -/
def wordFor (opc n : Int) : Int := 100 * opc + n

/-- The encoder: the word of a well-formed instruction, from the encodings of R74 to R88 (`10nn`, `11nn`, ...). -/
def encode (i : Instr) : Int :=
  match i with
  | .read n => wordFor 10 n
  | .write n => wordFor 11 n
  | .load n => wordFor 20 n
  | .store n => wordFor 21 n
  | .add n => wordFor 30 n
  | .sub n => wordFor 31 n
  | .div n => wordFor 32 n
  | .mul n => wordFor 33 n
  | .br n => wordFor 40 n
  | .brneg n => wordFor 41 n
  | .brzero n => wordFor 42 n
  | .halt n => wordFor 43 n
  | .unmapped w => w

end Sys2Proof
end

