-- ==== Sys2Proof/Machine/State.lean ====
section
/-! DEFINITION. The machine's state as plain data: every piece of state of 10_state.md, the loader's two counters of
20_memory.md R33 and the host's coming inputs (00_scope.md section 6). -/

namespace Sys2Proof.Machine

/-- Memory as (address, word) pairs: addresses strictly rising, no listed word equal to what an unlisted address
reads as (log entry 1). The smallest addressable unit is the word (20_memory.md R40), so a cell holds a word. -/
abbrev Memory := List (Nat × Int)

/-- `STATUS`, the run status (10_state.md R25). -/
inductive Status where
  /-- 0 IDLE: no program loaded. -/
  | idle
  /-- 1 LOADING: the load port is populating memory. -/
  | loading
  /-- 2 READY: a load completed without error. -/
  | ready
  /-- 3 RUNNING: cycles are executing. -/
  | running
  /-- 4 HALTED: HALT or an unmapped opcode ended the run. -/
  | halted
  /-- 5 FAULTED: a run-time error ended the run. -/
  | faulted
  /-- 6 LOAD_FAILED: the load failed with LoadError. -/
  | loadFailed
  deriving DecidableEq, Repr

/-- `FAULT_KIND` (10_state.md R26, 60_exceptions.md R91). -/
inductive FaultKind where
  /-- 0: no error. -/
  | noFault
  /-- 1 LoadError. -/
  | loadError
  /-- 2 WordOverflowError. -/
  | wordOverflowError
  /-- 3 DivisionByZeroError. -/
  | divisionByZeroError
  /-- 4 InputExhaustedError. -/
  | inputExhaustedError
  /-- 5 AddressBoundsError. -/
  | addressBoundsError
  deriving DecidableEq, Repr

/-- `LOAD_CAUSE` (10_state.md R26). -/
inductive LoadCause where
  /-- 0: none. -/
  | noCause
  /-- 1 SourceUnreadable. -/
  | sourceUnreadable
  /-- 2 NotAnInteger. -/
  | notAnInteger
  /-- 3 OutOfRange. -/
  | outOfRange
  /-- 4 TooLong. -/
  | tooLong
  deriving DecidableEq, Repr

/-- A run-time error with the value it concerns: the `E(info)` of `raise E(info)` (60_exceptions.md R91, R93). -/
inductive RunError where
  /-- WordOverflowError(r): the exact result, or the input or memory value, that is no word. -/
  | wordOverflow (r : Int)
  /-- DivisionByZeroError(ic). -/
  | divisionByZero (ic : Int)
  /-- InputExhaustedError(ic). -/
  | inputExhausted (ic : Int)
  /-- AddressBoundsError(a): the address outside [0, 99]. -/
  | addressBounds (a : Int)
  deriving DecidableEq, Repr

/-- A load token (20_memory.md R29): one source line. -/
inductive Token where
  /-- `Int(v)`: the line was a decimal integer literal of value `v`. -/
  | int (v : Int)
  /-- `Malformed`: the line is no valid integer literal. -/
  | malformed
  deriving DecidableEq, Repr

/-- What the host can do to the core (00_scope.md section 6): the commands of 70_reset_and_hazards.md R107 and the
load port's signals of 20_memory.md R29 and R31. -/
inductive Command where
  /-- The reset input (R105). -/
  | reset
  /-- Load start (R32). -/
  | loadStart
  /-- The load port delivers the next token (R29). -/
  | token (t : Token)
  /-- The load port signals the end of the source (R29, R38). -/
  | endOfSource
  /-- The load port's `unreadable` signal (R31). -/
  | unreadable
  /-- Run start with the input sequence (R106). -/
  | runStart (inputs : List Int)
  deriving DecidableEq, Repr

/-- Who moves at a step: the host with a command, or nobody but the core (log entry 3). -/
inductive HostInput where
  /-- The host gives nothing, the core moves. -/
  | quiet
  /-- The host gives a command. It lands between two cycles (40_cycle.md R68). -/
  | command (c : Command)
  deriving DecidableEq, Repr

/-- The whole state. -/
structure State where
  /-- `ACC`, the accumulator (10_state.md R15). -/
  acc : Int
  /-- `IC`, the instruction counter (10_state.md R16). -/
  ic : Int
  /-- `IR`, the instruction register (10_state.md R17). -/
  ir : Int
  /-- `OPC`, the decoded opcode (10_state.md R18). -/
  opc : Int
  /-- `OPR`, the decoded operand (10_state.md R19). -/
  opr : Int
  /-- `M[0..99]` (10_state.md R21). -/
  mem : Memory
  /-- `INPUTS` (10_state.md R23). -/
  inputs : List Int
  /-- `INCUR` (10_state.md R24). -/
  incur : Nat
  /-- `STATUS` (10_state.md R25). -/
  status : Status
  /-- `FAULT_KIND` (10_state.md R26). -/
  faultKind : FaultKind
  /-- `LOAD_CAUSE` (10_state.md R26). -/
  loadCause : LoadCause
  /-- `FAULT_LINE` (10_state.md R26). -/
  faultLine : Nat
  /-- The loader's `k`, the next address to write (20_memory.md R33); 0 when no load is in progress (log entry 4). -/
  loadAddr : Nat
  /-- The loader's `i`, the next token's index (20_memory.md R33); 0 when no load is in progress (log entry 4). -/
  loadIndex : Nat
  /-- The host's coming inputs, one taken a step; an empty list is a host that stays quiet. The MODEL's own field
  (log entry 3). -/
  host : List HostInput
  deriving DecidableEq, Repr

/-- Why a step can stop with a fault. The five error kinds of the spec are no faults of this type: their entry is
described (60_exceptions.md R93), so they are next states. -/
inductive Fault where
  /-- Raised by the fetch alone, when the memory cell at IC holds an integer outside [-9999, 9999]. The spec excludes
  such a cell (10_state.md R21) and gives no decode of it. Safe: no state that meets the word invariant raises it
  (log entry 5). -/
  | notAWord (w : Int)
  deriving DecidableEq, Repr

/-- Why an instruction can be refused. -/
inductive Refusal where
  /-- Raised by `exec` alone, for an instruction of the table that has no meaning yet. Safe. No arm raises it. -/
  | notModelled (mnemonic : String)
  deriving DecidableEq, Repr

/-- The outcome of an instruction or a step. -/
abbrev Result := Host.Outcome State Fault Refusal

/-- The machine right after reset (70_reset_and_hazards.md R105). -/
def State.reset : State where
  acc := Config.accReset
  ic := Config.icReset
  ir := Config.irReset
  opc := Config.opcReset
  opr := Config.oprReset
  mem := []
  inputs := []
  incur := 0
  status := .idle
  faultKind := .noFault
  loadCause := .noCause
  faultLine := 0
  loadAddr := 0
  loadIndex := 0
  host := []

end Sys2Proof.Machine
end

