-- ==== Sys2Proof/Machine/Ops.lean ====
section
/-! DEFINITION. The operations every instruction is written over: memory words, the updates of the registers, and the
one shared error entry `raise` (60_exceptions.md R93). There is no return from an error (R95), so none stands beside it. -/

namespace Sys2Proof.Machine

/-! ### Memory words -/

/-- What an address that is not listed reads as: 0, the reset and pre-load contents (R105, 20_memory.md R32). -/
def unlistedWord : Int := 0

/-- The word `M[a]`. -/
def Memory.read (m : Memory) (a : Nat) : Int :=
  match m with
  | [] => unlistedWord
  | c :: rest => if c.1 = a then c.2 else Memory.read rest a

/-- The list with the cell `a` put in its place by address. -/
def Memory.place (m : Memory) (a : Nat) (v : Int) : Memory :=
  match m with
  | [] => [(a, v)]
  | c :: rest => if a < c.1 then (a, v) :: c :: rest else c :: Memory.place rest a v

/-- The list without the cell `a`. -/
def Memory.erase (m : Memory) (a : Nat) : Memory := m.filter (fun c => c.1 != a)

/-- `M[a] <- v`, in canonical form: a word equal to `unlistedWord` is not listed. -/
def Memory.write (m : Memory) (a : Nat) (v : Int) : Memory :=
  if v = unlistedWord then Memory.erase m a else Memory.place (Memory.erase m a) a v

/-- The canonical form: addresses strictly rising and below `MEM_SIZE` (R5), no listed word equal to `unlistedWord`. -/
def Memory.wf (m : Memory) : Bool :=
  match m with
  | [] => true
  | c :: rest =>
    decide (c.1 < Config.memSize) && decide (c.2 ≠ unlistedWord) && rest.all (fun d => decide (c.1 < d.1)) &&
      Memory.wf rest

/-- The 100 words in address order. -/
def Memory.words (m : Memory) : List Int := (List.range Config.memSize).map (Memory.read m)

/-! ### Register updates -/

/-- `ACC <- v`. -/
def setAcc (v : Int) (s : State) : State := { s with acc := v }

/-- `IC <- a`. -/
def setIc (a : Int) (s : State) : State := { s with ic := a }

/-- Fetch and decode write `IR`, `OPC` and `OPR` from the fetched word (R64 steps 1 and 2, R54). -/
def latch (w : Int) (s : State) : State := { s with ir := w, opc := opcodeOf w, opr := operandOf w }

/-- `M[a] <- v`. -/
def setWord (a : Nat) (v : Int) (s : State) : State := { s with mem := Memory.write s.mem a v }

/-- `in_consume()` of 41_io.md R72: `INCUR <- INCUR + 1`. -/
def inConsume (s : State) : State := { s with incur := s.incur + 1 }

/-- The termination test's write, `STATUS <- HALTED` (40_cycle.md R67). -/
def setHalted (s : State) : State := { s with status := .halted }

/-- Take the next host input off the list (log entry 3). -/
def setHost (h : List HostInput) (s : State) : State := { s with host := h }

/-! ### Error entry -/

/-- The kind that `FAULT_KIND` records for a run-time error (60_exceptions.md R91). -/
def RunError.kind (e : RunError) : FaultKind :=
  match e with
  | .wordOverflow _ => .wordOverflowError
  | .divisionByZero _ => .divisionByZeroError
  | .inputExhausted _ => .inputExhaustedError
  | .addressBounds _ => .addressBoundsError

/-- The state after error entry (60_exceptions.md R93): STATUS and FAULT_KIND are written, nothing else; the value the
error concerns is stored nowhere. -/
def enterFault (e : RunError) (s : State) : State := { s with status := .faulted, faultKind := e.kind }

/-- `raise E(info)` (R93): the run ends FAULTED. There is no handler, so the next state is the terminal one. -/
def raise (e : RunError) (s : State) : Result := .next (enterFault e s)

/-! ### How an instruction completes (40_cycle.md R66) -/

/-- Sequential: `IC <- IC + 1`. There is no wrap-around (10_state.md R16). -/
def advance (s : State) : Result := .next (setIc (s.ic + 1) s)

/-- Branch: `IC <- OPR`, an absolute target (30_encoding.md R60). -/
def branchTo (a : Int) (s : State) : Result := .next (setIc a s)

/-- None: IC unchanged, and the termination test that follows sets STATUS to HALTED (40_cycle.md R67; log entry 16). -/
def endRun (s : State) : Result := .next (setHalted s)

end Sys2Proof.Machine
end

