-- ==== Sys2Proof/Machine/Operands.lean ====
section
/-! DEFINITION. The one operand form of the machine, a direct address (30_encoding.md R60), and the checked runtime
accesses through it (20_memory.md R41). -/

namespace Sys2Proof.Machine

/-- The address check's condition: `a` is one of the 100 addresses (R41). -/
abbrev addressInMemory (a : Int) : Prop := 0 ≤ a ∧ a ≤ 99

/-- The effective address of a memory operand or branch target: the operand itself (R60, 42_load_store.md's opening:
`ea = OPR`). -/
def effectiveAddress (n : Int) : Int := n

/-- `MemRead(a, 1)` after its address check (R41): the word, or the error to raise. -/
def memRead (a : Int) (s : State) : Except RunError Int :=
  if addressInMemory a then .ok (Memory.read s.mem a.toNat) else .error (.addressBounds a)

/-- `MemWrite(a, 1, v)` after its address check (R41): the state with the word written, or the error to raise. -/
def memWrite (a : Int) (v : Int) (s : State) : Except RunError State :=
  if addressInMemory a then .ok (setWord a.toNat v s) else .error (.addressBounds a)

/-- Read the memory operand and go on with its word, or raise. -/
def withOperand (n : Int) (s : State) (go : Int → Result) : Result :=
  match memRead (effectiveAddress n) s with
  | .ok v => go v
  | .error e => raise e s

/-- Write the memory operand and go on from the state after it, or raise. -/
def withStored (n : Int) (v : Int) (s : State) (go : State → Result) : Result :=
  match memWrite (effectiveAddress n) v s with
  | .ok t => go t
  | .error e => raise e s

end Sys2Proof.Machine
end

