-- ==== Sys2Proof/Machine/Flags.lean ====
section
/-! DEFINITION. The machine has no flags or condition codes (10_state.md R20). What stands here is what other machines
use flags for: the overflow check on an exact result (43_arithmetic.md R79) and the two tests on ACC
(44_control.md R85, R86). -/

namespace Sys2Proof.Machine

/-- `check_and_commit(r)` of R79: an exact result that is no word raises WordOverflowError, any other is written to
ACC and the counter advances. -/
def checkAndCommit (r : Int) (s : State) : Result :=
  if validWord r then advance (setAcc r s) else raise (.wordOverflow r) s

/-- BRNEG's test, on ACC directly (R85). -/
def accNegative (s : State) : Bool := decide (s.acc < 0)

/-- BRZERO's test, on ACC directly (R86). -/
def accZero (s : State) : Bool := decide (s.acc = 0)

/-- A conditional branch: taken to the target, else sequential (R66). -/
def branchIf (taken : Bool) (n : Int) (s : State) : Result :=
  if taken then branchTo (effectiveAddress n) s else advance s

end Sys2Proof.Machine
end

