-- ==== Sys2Proof/Machine/Arithmetic.lean ====
section
/-! DEFINITION. The ALU (43_arithmetic.md): exact integer results, then the range check. The memory word is the
right-hand operand. -/

namespace Sys2Proof.Machine

/-- ADD (R80). -/
def execAdd (n : Int) (s : State) : Result := withOperand n s (fun b => checkAndCommit (s.acc + b) s)

/-- SUB (R81): ACC minus memory. -/
def execSub (n : Int) (s : State) : Result := withOperand n s (fun b => checkAndCommit (s.acc - b) s)

/-- DIV (R82): the divisor is tested before dividing. -/
def execDiv (n : Int) (s : State) : Result :=
  withOperand n s (fun b =>
    if b = 0 then raise (.divisionByZero s.ic) s else checkAndCommit (tdiv s.acc b) s)

/-- MUL (R83). -/
def execMul (n : Int) (s : State) : Result := withOperand n s (fun b => checkAndCommit (s.acc * b) s)

end Sys2Proof.Machine
end

