-- ==== Sys2Proof/Machine/Control.lean ====
section
/-! DEFINITION. Branches, HALT and the unmapped fallback (44_control.md). -/

namespace Sys2Proof.Machine

/-- BR (R84). -/
def execBr (n : Int) (s : State) : Result := branchTo (effectiveAddress n) s

/-- BRNEG (R85). -/
def execBrneg (n : Int) (s : State) : Result := branchIf (accNegative s) n s

/-- BRZERO (R86). -/
def execBrzero (n : Int) (s : State) : Result := branchIf (accZero s) n s

/-- HALT (R87): no mutation of ACC, IC, memory or INCUR; the run ends HALTED (R67). The operand is ignored. -/
def execHalt (_n : Int) (s : State) : Result := endRun s

/-- An unmapped opcode (R88): the named fallback policy, treated as HALT; no error. -/
def execUnmapped (_w : Int) (s : State) : Result := endRun s

end Sys2Proof.Machine
end

