-- ==== Sys2Proof/Machine/InputOutput.lean ====
section
/-! DEFINITION. READ, WRITE and the input stream multiplexer (41_io.md). -/

namespace Sys2Proof.Machine

/-- The multiplexer's two signals in one (R72): the element at the cursor when `in_avail`, nothing when the stream is
exhausted. -/
def inValue (s : State) : Option Int := s.inputs[s.incur]?

/-- READ (R74): exhaustion, then the input's range (the spec's decision D8, log entry 9), then the address. -/
def execRead (n : Int) (s : State) : Result :=
  match inValue s with
  | none => raise (.inputExhausted s.ic) s
  | some v =>
    if validWord v then withStored n v s (fun t => advance (inConsume t)) else raise (.wordOverflow v) s

/-- WRITE (R75): a true no-op that advances; the operand is ignored and there is no output port. -/
def execWrite (_n : Int) (s : State) : Result := advance s

end Sys2Proof.Machine
end

