-- ==== Sys2Proof/Machine/LoadStore.lean ====
section
/-! DEFINITION. LOAD and STORE (42_load_store.md). -/

namespace Sys2Proof.Machine

/-- LOAD (R76): the range check is the same as R79's and cannot fail while memory holds words. -/
def execLoad (n : Int) (s : State) : Result := withOperand n s (fun v => checkAndCommit v s)

/-- STORE (R77). -/
def execStore (n : Int) (s : State) : Result := withStored n s.acc s advance

end Sys2Proof.Machine
end

