-- ==== Sys2Proof/Machine/Dispatch.lean ====
section
/-! DEFINITION. The execute phase's dispatch on the decoded operation (40_cycle.md R64 step 3, R66). -/

namespace Sys2Proof.Machine

/-- The meaning of one instruction from the state after its fetch and decode. -/
def exec (i : Instr) (s : State) : Host.Outcome State Fault Refusal :=
  match i with
  | .read n => Sys2Proof.Machine.execRead n s
  | .write n => Sys2Proof.Machine.execWrite n s
  | .load n => Sys2Proof.Machine.execLoad n s
  | .store n => Sys2Proof.Machine.execStore n s
  | .add n => Sys2Proof.Machine.execAdd n s
  | .sub n => Sys2Proof.Machine.execSub n s
  | .div n => Sys2Proof.Machine.execDiv n s
  | .mul n => Sys2Proof.Machine.execMul n s
  | .br n => Sys2Proof.Machine.execBr n s
  | .brneg n => Sys2Proof.Machine.execBrneg n s
  | .brzero n => Sys2Proof.Machine.execBrzero n s
  | .halt n => Sys2Proof.Machine.execHalt n s
  | .unmapped w => Sys2Proof.Machine.execUnmapped w s

end Sys2Proof.Machine
end

