-- ==== Sys2Proof/Machine/Fetch.lean ====
section
/-! DEFINITION. The fetch and decode steps of a cycle (40_cycle.md R64 steps 1 and 2, R65). -/

namespace Sys2Proof.Machine

/-- Fetch the word at IC and decode it, then run `run` on the instruction from the state with IR, OPC and OPR written.
IC outside [0, 99] raises AddressBoundsError with IR, OPC and OPR unchanged (60_exceptions.md R92). A cell that holds no
word stops the model by name (log entry 5). -/
def fetchThen (s : State) (run : Instr → State → Result) : Result :=
  match memRead s.ic s with
  | .error e => raise e s
  | .ok w =>
    match decode w with
    | .error _ => .fault (.notAWord w)
    | .ok i => run i (latch w s)

/-- The address the next fetch reads; a counter outside memory fetches nothing, so a program placed there starts at 0. -/
def fetchSlot (s : State) : Int := if addressInMemory s.ic then s.ic else Config.icReset

/-- `s` made ready to fetch the word `w` at its next step: the load of one word and the start of its run stand in one
(log entry 3). The fetch needs the word in its cell, IC inside memory, STATUS RUNNING and a quiet host. -/
def placeFetchWord (w : Int) (s : State) : State :=
  { s with mem := Memory.write s.mem (fetchSlot s).toNat w, ic := fetchSlot s, status := .running,
           host := .quiet :: s.host }

end Sys2Proof.Machine
end

