-- ==== Sys2Proof/Machine/LoadPort.lean ====
section
/-! DEFINITION. The program loader behind the load port (20_memory.md R32 to R39), one token at a time. -/

namespace Sys2Proof.Machine

/-- Load start (R32): memory zero-filled, STATUS LOADING, fault record cleared; the loader's `k` and `i` start at 0
(R33). Nothing else is touched. -/
def loadStart (s : State) : State :=
  { s with mem := [], status := .loading, faultKind := .noFault, loadCause := .noCause, faultLine := 0,
           loadAddr := 0, loadIndex := 0 }

/-- `finish()` (R38). -/
def loadFinish (s : State) : State := { s with status := .ready, loadAddr := 0, loadIndex := 0 }

/-- `fail(cause, i)` (R39), at the current token index. -/
def loadFail (c : LoadCause) (s : State) : State :=
  { s with status := .loadFailed, faultKind := .loadError, loadCause := c, faultLine := s.loadIndex,
           loadAddr := 0, loadIndex := 0 }

/-- An accepted word goes to address `k`; `k` and `i` move on (R33). -/
def loadAccept (v : Int) (s : State) : State :=
  { s with mem := Memory.write s.mem s.loadAddr v, loadAddr := s.loadAddr + 1, loadIndex := s.loadIndex + 1 }

/-- One token, in the order of R33's pseudocode: sentinel (R34), malformed (R35), range (R36), length (R37), write. -/
def loadToken (t : Token) (s : State) : State :=
  match t with
  | .malformed => loadFail .notAnInteger s
  | .int v =>
    if v = Config.sentinel then loadFinish s
    else if ¬ validWord v then loadFail .outOfRange s
    else if s.loadAddr = Config.memSize then loadFail .tooLong s
    else loadAccept v s

end Sys2Proof.Machine
end

