-- ==== Sys2Proof/Machine/HostPort.lean ====
section
/-! DEFINITION. The host's commands and when they are accepted (70_reset_and_hazards.md R105 to R107). -/

namespace Sys2Proof.Machine

/-- The reset input (R105). The host's coming inputs are the host's and stay. -/
def hostReset (s : State) : State := setHost s.host State.reset

/-- Run start (R106): memory is unchanged, everything a run starts from is set. -/
def runStart (xs : List Int) (s : State) : State :=
  { s with inputs := xs, incur := 0, ic := Config.icReset, acc := Config.accReset, ir := Config.irReset,
           opc := Config.opcReset, opr := Config.oprReset, faultKind := .noFault, loadCause := .noCause,
           faultLine := 0, status := .running }

/-- In which STATUS a command is accepted (R107); the load port is used only while LOADING (20_memory.md R42). -/
def accepted (c : Command) (st : Status) : Bool :=
  match c with
  | .reset => true
  | .loadStart => decide (st ≠ .loading ∧ st ≠ .running)
  | .token _ => decide (st = .loading)
  | .endOfSource => decide (st = .loading)
  | .unreadable => decide (st = .loading)
  | .runStart _ => decide (st = .ready)

/-- The effect of an accepted command. -/
def commandEffect (c : Command) (s : State) : State :=
  match c with
  | .reset => hostReset s
  | .loadStart => loadStart s
  | .token t => loadToken t s
  | .endOfSource => loadFinish s
  | .unreadable => loadFail .sourceUnreadable s
  | .runStart xs => runStart xs s

/-- The host gives a command: its effect where it is accepted, no effect where it is not (R107; log entry 13). -/
def hostMove (c : Command) (s : State) : State := if accepted c s.status then commandEffect c s else s

end Sys2Proof.Machine
end

