-- ==== Sys2Proof/Machine/Cycle.lean ====
section
/-! DEFINITION. Who moves at a step and what the core's own move is (40_cycle.md R63, R64, R68; log entry 3). -/

namespace Sys2Proof.Machine

/-- The core's own move: one cycle while RUNNING; in any other STATUS the core makes no step and everything keeps its
value (R63, 60_exceptions.md R104). -/
def coreMove (s : State) : Result :=
  match s.status with
  | .running => fetchThen s exec
  | .idle => .next s
  | .loading => .next s
  | .ready => .next s
  | .halted => .next s
  | .faulted => .next s
  | .loadFailed => .next s

/-- The block's next move: the host's command if it gives one, else the core's. Never both, so no command falls inside
a cycle (R68). -/
def nextMove (s : State) : Result :=
  match s.host with
  | [] => coreMove s
  | .quiet :: rest => coreMove (setHost rest s)
  | .command c :: rest => .next (hostMove c (setHost rest s))

end Sys2Proof.Machine
end

