-- ==== Sys2Proof/Machine/Lexer.lean ====
section
/-! DEFINITION. How source text becomes load tokens (20_memory.md R30). The host does it before the load port; text is
a list of characters. The whole rule is the spec's decision D12 (log entry 11). -/

namespace Sys2Proof.Machine

/-- R30.1, a line's carriage return before its line feed: `cur` is the line so far, last character first. -/
def dropReturn (cur : List Char) : List Char :=
  match cur with
  | [] => []
  | c :: rest => if c = '\r' then rest else c :: rest

/-- R30.1: split at line feeds, a carriage return directly before one belonging to the terminator. A final line without
a terminator is a line; the empty remainder after a final line feed is not. `cur` is the line so far, reversed. -/
def linesFrom (cur text : List Char) : List (List Char) :=
  match text with
  | [] => if cur = [] then [] else [cur.reverse]
  | c :: rest => if c = '\n' then (dropReturn cur).reverse :: linesFrom [] rest else linesFrom (c :: cur) rest

/-- The lines of a source text (R30.1). -/
def sourceLines (text : List Char) : List (List Char) := linesFrom [] text

/-- R30.2: a space or a tab. -/
def isBlank (c : Char) : Bool := decide (c = ' ') || decide (c = '\t')

/-- R30.2: without leading and trailing spaces and tabs. -/
def trimBlanks (cs : List Char) : List Char := ((cs.dropWhile isBlank).reverse.dropWhile isBlank).reverse

/-- The value of a decimal digit. -/
def digitValue (c : Char) : Option Nat := if 48 ≤ c.toNat ∧ c.toNat ≤ 57 then some (c.toNat - 48) else none

/-- The value of digits read after the value `v`, nothing if some character is no digit. -/
def digitsFrom (v : Nat) (cs : List Char) : Option Nat :=
  match cs with
  | [] => some v
  | c :: rest =>
    match digitValue c with
    | some d => digitsFrom (10 * v + d) rest
    | none => none

/-- `[0-9]+`: at least one digit and nothing else. -/
def naturalLiteral (cs : List Char) : Option Nat :=
  match cs with
  | [] => none
  | c :: rest => digitsFrom 0 (c :: rest)

/-- A literal's value under its sign, 1 or -1. -/
def signedValue (sign : Int) (magnitude : Option Nat) : Option Int :=
  match magnitude with
  | some n => some (sign * (n : Int))
  | none => none

/-- `[+-]?[0-9]+` with its value (R30.3); `-0` and `+0` are 0. -/
def integerLiteral (cs : List Char) : Option Int :=
  match cs with
  | [] => none
  | c :: rest =>
    if c = '+' then signedValue 1 (naturalLiteral rest)
    else if c = '-' then signedValue (-1) (naturalLiteral rest)
    else signedValue 1 (naturalLiteral (c :: rest))

/-- The token of one line (R30.2, R30.3): an integer literal or `Malformed`. -/
def lineToken (cs : List Char) : Token :=
  match integerLiteral (trimBlanks cs) with
  | some v => .int v
  | none => .malformed

/-- The tokens of a source text (R30). -/
def sourceTokens (text : List Char) : List Token := (sourceLines text).map lineToken

/-- The host's inputs that load a source text: load start, its tokens in order, end of source (R29, R32). -/
def loadInputs (text : List Char) : List HostInput :=
  .command .loadStart :: ((sourceTokens text).map (fun t => .command (.token t)) ++ [.command .endOfSource])

end Sys2Proof.Machine
end

