-- ==== Sys2Proof/Machine/Observe.lean ====
section
/-! DEFINITION. What the host reads: the status outputs and the observation port (60_exceptions.md R97, R98) and the
final state of an ended run (40_cycle.md R70). Reading changes nothing, so these are functions of the state. -/

namespace Sys2Proof.Machine

/-- The code of a STATUS value (10_state.md R25). -/
def Status.code (st : Status) : Nat :=
  match st with
  | .idle => 0
  | .loading => 1
  | .ready => 2
  | .running => 3
  | .halted => 4
  | .faulted => 5
  | .loadFailed => 6

/-- The code of a FAULT_KIND value (10_state.md R26, 60_exceptions.md R91). -/
def FaultKind.code (k : FaultKind) : Nat :=
  match k with
  | .noFault => 0
  | .loadError => 1
  | .wordOverflowError => 2
  | .divisionByZeroError => 3
  | .inputExhaustedError => 4
  | .addressBoundsError => 5

/-- The code of a LOAD_CAUSE value (10_state.md R26). -/
def LoadCause.code (c : LoadCause) : Nat :=
  match c with
  | .noCause => 0
  | .sourceUnreadable => 1
  | .notAnInteger => 2
  | .outOfRange => 3
  | .tooLong => 4

/-- What the observation port gives (R98). -/
structure Observation where
  /-- ACC -/
  acc : Int
  /-- IC -/
  ic : Int
  /-- IR -/
  ir : Int
  /-- OPC -/
  opc : Int
  /-- OPR -/
  opr : Int
  /-- the 100 words in address order -/
  words : List Int
  /-- INCUR -/
  incur : Nat
  /-- STATUS, its code -/
  status : Nat
  /-- FAULT_KIND, its code -/
  faultKind : Nat
  /-- LOAD_CAUSE, its code -/
  loadCause : Nat
  /-- FAULT_LINE -/
  faultLine : Nat
  deriving DecidableEq, Repr

/-- The observation port (R98), readable in every STATUS. -/
def observe (s : State) : Observation where
  acc := s.acc
  ic := s.ic
  ir := s.ir
  opc := s.opc
  opr := s.opr
  words := Memory.words s.mem
  incur := s.incur
  status := s.status.code
  faultKind := s.faultKind.code
  loadCause := s.loadCause.code
  faultLine := s.faultLine

/-- A run has ended exactly when STATUS is HALTED or FAULTED (R70). -/
def runEnded (s : State) : Bool := decide (s.status = .halted) || decide (s.status = .faulted)

/-- The final state of a run (R70). -/
structure FinalState where
  /-- ACC -/
  acc : Int
  /-- IC -/
  ic : Int
  /-- IR -/
  ir : Int
  /-- OPC -/
  opc : Int
  /-- OPR -/
  opr : Int
  /-- the 100 words in address order -/
  words : List Int
  /-- INCUR -/
  incur : Nat
  /-- STATUS -/
  status : Status
  /-- FAULT_KIND -/
  faultKind : FaultKind
  deriving DecidableEq, Repr

/-- The final state, once the run has ended (R70). -/
def finalState (s : State) : Option FinalState :=
  if runEnded s then
    some { acc := s.acc, ic := s.ic, ir := s.ir, opc := s.opc, opr := s.opr, words := Memory.words s.mem,
           incur := s.incur, status := s.status, faultKind := s.faultKind }
  else none

end Sys2Proof.Machine
end

