-- ==== Sys2Proof/Machine/Step.lean ====
section
/-! DEFINITION. The step function and the host's way to place one word under the next fetch. -/

namespace Sys2Proof.Machine

/-- One step of the block (40_cycle.md R63, R64, R68): `nextMove` of Machine/Cycle.lean. -/
def step (s : State) : Host.Outcome State Fault Refusal := nextMove s

/-- `s` with the word that the number `w` stands for placed where the next step fetches (`placeFetchWord`). -/
def State.withFetchWord (s : State) (_nbits w : Nat) : State := placeFetchWord (wordOfBits w) s

end Sys2Proof.Machine
end

