-- ==== Sys2Proof/Safety.lean ====
section
/-! DEFINITION. What claims are stated in: the invariants of the machine, each from a rule of 10_state.md or
20_memory.md, and what a run without error is. -/

namespace Sys2Proof.Machine

/-- The word invariant (10_state.md R22, R15, R17, R21): ACC, IR and every memory word hold a word. -/
abbrev wordInvariant (s : State) : Prop :=
  validWord s.acc ∧ validWord s.ir ∧ ∀ a < 100, validWord (Memory.read s.mem a)

/-- The ranges of the counter and the decoded registers (10_state.md R16, R18, R19), and that the decode is exact:
`IR = 100 * OPC + OPR` (30_encoding.md R54). -/
abbrev registerInvariant (s : State) : Prop :=
  (0 ≤ s.ic ∧ s.ic ≤ 100) ∧ (-99 ≤ s.opc ∧ s.opc ≤ 99) ∧ (-99 ≤ s.opr ∧ s.opr ≤ 99) ∧ s.ir = 100 * s.opc + s.opr

/-- The input cursor stays within the stream (10_state.md R24). -/
abbrev cursorInvariant (s : State) : Prop := s.incur ≤ s.inputs.length

/-- Memory is in canonical form and, during a load, the loader's `k` and `i` agree, stay within memory, and everything
from `k` on is still 0 (20_memory.md R32, R33); outside a load they are 0 (log entry 4). -/
abbrev memoryInvariant (s : State) : Prop :=
  Memory.wf s.mem = true ∧
    (s.status = .loading → s.loadAddr = s.loadIndex ∧ s.loadAddr ≤ 100 ∧
      ∀ a < 100, s.loadAddr ≤ a → Memory.read s.mem a = 0) ∧
    (s.status ≠ .loading → s.loadAddr = 0 ∧ s.loadIndex = 0)

/-- The four run-time error kinds (60_exceptions.md R91, kinds 2 to 5). -/
abbrev runtimeKind (k : FaultKind) : Prop := k ≠ .noFault ∧ k ≠ .loadError

/-- The fault record agrees with the status (10_state.md R26, 60_exceptions.md R93, 20_memory.md R39). -/
abbrev recordInvariant (s : State) : Prop :=
  (s.status = .faulted ↔ runtimeKind s.faultKind) ∧ (s.status = .loadFailed ↔ s.faultKind = .loadError) ∧
    (s.status = .loadFailed ↔ s.loadCause ≠ .noCause) ∧ (s.status ≠ .loadFailed → s.faultLine = 0)

/-- All of them together. -/
abbrev machineInvariant (s : State) : Prop :=
  wordInvariant s ∧ registerInvariant s ∧ cursorInvariant s ∧ memoryInvariant s ∧ recordInvariant s

/-- The host lets the core move at the next step. -/
abbrev hostQuiet (s : State) : Prop := s.host = [] ∨ s.host.head? = some .quiet

/-- What is left of the host's inputs after the next step. -/
def hostRest (s : State) : List HostInput := s.host.tail

/-- No error has ended a run or a load (60_exceptions.md R91). -/
abbrev errorFree (s : State) : Prop := s.status ≠ .faulted ∧ s.status ≠ .loadFailed

/-- The operation a cycle dispatched ends the run (40_cycle.md R67). -/
def endsRun (i : Instr) : Bool :=
  match i with
  | .halt _ => true
  | .unmapped _ => true
  | .read _ => false
  | .write _ => false
  | .load _ => false
  | .store _ => false
  | .add _ => false
  | .sub _ => false
  | .div _ => false
  | .mul _ => false
  | .br _ => false
  | .brneg _ => false
  | .brzero _ => false

end Sys2Proof.Machine
end

