-- ==== Sys2Proof/Certificates/Slice0/Obligations.lean ====
section
/-! DEFINITION. The statements for the provers. Each docstring names the rule of spec/ it formalises; a statement that
rests on a decision of the spec's own (D<n> of 92_eei_decisions.md) or on a log entry says so. -/

open Sys2Proof Sys2Proof.Machine

/-! ### Encoding and decoding -/

/-- Words of the decoder's vector table (95_test_vectors.md section 2.1), written out digit by digit. -/
def Obligations.KnownWordsDecode : Prop :=
  decode 1099 = .ok (.read 99) ∧ decode 1100 = .ok (.write 0) ∧ decode 2007 = .ok (.load 7) ∧
    decode 2199 = .ok (.store 99) ∧ decode 3008 = .ok (.add 8) ∧ decode 3150 = .ok (.sub 50) ∧
    decode 3201 = .ok (.div 1) ∧ decode 3399 = .ok (.mul 99) ∧ decode 4000 = .ok (.br 0) ∧
    decode 4142 = .ok (.brneg 42) ∧ decode 4210 = .ok (.brzero 10) ∧ decode 4399 = .ok (.halt 99) ∧
    decode 999 = .ok (.unmapped 999) ∧ decode 4400 = .ok (.unmapped 4400) ∧ decode (-4300) = .ok (.unmapped (-4300))

/-- R58: the decoder's operation is a total function of OPC, with thirteen values. -/
def Obligations.OperationIsATotalFunctionOfTheOpcode : Prop :=
  ∀ c : Int, decodeOp c =
    if c = 10 then .read else if c = 11 then .write else if c = 20 then .load else if c = 21 then .store
    else if c = 30 then .add else if c = 31 then .sub else if c = 32 then .div else if c = 33 then .mul
    else if c = 40 then .br else if c = 41 then .brneg else if c = 42 then .brzero else if c = 43 then .halt
    else .unmapped

/-- The opcode table (30_encoding.md section 3): the twelve opcodes, each with every operand of two digits. -/
def Obligations.OpcodeTableDecodes : Prop :=
  ∀ n : Int, operandInRange n →
    decode (1000 + n) = .ok (.read n) ∧ decode (1100 + n) = .ok (.write n) ∧ decode (2000 + n) = .ok (.load n) ∧
      decode (2100 + n) = .ok (.store n) ∧ decode (3000 + n) = .ok (.add n) ∧ decode (3100 + n) = .ok (.sub n) ∧
      decode (3200 + n) = .ok (.div n) ∧ decode (3300 + n) = .ok (.mul n) ∧ decode (4000 + n) = .ok (.br n) ∧
      decode (4100 + n) = .ok (.brneg n) ∧ decode (4200 + n) = .ok (.brzero n) ∧ decode (4300 + n) = .ok (.halt n)

/-- Decode and encode agree: every well-formed instruction, with every operand, is read back from its word. -/
def Obligations.DecodeOfEncodeIsTheInstruction : Prop :=
  ∀ i : Instr, wellFormed i = true → decode (encode i) = .ok i

/-- Every word is exactly one instruction (30_encoding.md section 4), which encodes to that word (section 2: the decode is
exact and invertible). That an integer which is no word does not decode is the model's choice (log entry 5, DESIGN
CHOICE, `DecodeError.notAWord`): R52 of section 1 makes only a word an instruction and gives no decode of anything
else. -/
def Obligations.EveryWordIsExactlyOneInstruction : Prop :=
  (∀ w : Int, validWord w ↔ ∃ i, decode w = .ok i) ∧ ∀ (w : Int) (i : Instr), decode w = .ok i → encode i = w

/-- R53: the opcode is the high two decimal digits and the operand the low two. -/
def Obligations.FieldsAreDecimalDigitGroups : Prop :=
  ∀ d3 d2 d1 d0 : Int, 0 ≤ d3 ∧ d3 ≤ 9 → 0 ≤ d2 ∧ d2 ≤ 9 → 0 ≤ d1 ∧ d1 ≤ 9 → 0 ≤ d0 ∧ d0 ≤ 9 →
    opcodeOf (1000 * d3 + 100 * d2 + 10 * d1 + d0) = 10 * d3 + d2 ∧
      operandOf (1000 * d3 + 100 * d2 + 10 * d1 + d0) = 10 * d1 + d0

/-- 30_encoding.md section 2 with the spec's decision D5 for negative words (log entry 7): the decode truncates toward
zero, is exact, and both fields of a negative word are those of its magnitude, negated. -/
def Obligations.DecodeSplitsEveryWord : Prop :=
  ∀ w : Int, validWord w →
    w = 100 * opcodeOf w + operandOf w ∧
      (0 ≤ w → (0 ≤ opcodeOf w ∧ opcodeOf w ≤ 99) ∧ 0 ≤ operandOf w ∧ operandOf w ≤ 99) ∧
      (w < 0 → opcodeOf w = -opcodeOf (-w) ∧ operandOf w = -operandOf (-w) ∧ decode w = .ok (.unmapped w))

/-- R59: which opcodes are unmapped; they act as HALT; the operand of WRITE and HALT is ignored; the word 0 is
unmapped. -/
def Obligations.UnmappedOpcodesActAsHalt : Prop :=
  (∀ c : Int, -99 ≤ c ∧ c ≤ 99 →
      (decodeOp c = .unmapped ↔
        (-99 ≤ c ∧ c ≤ 9) ∨ (12 ≤ c ∧ c ≤ 19) ∨ (22 ≤ c ∧ c ≤ 29) ∨ (34 ≤ c ∧ c ≤ 39) ∨ (44 ≤ c ∧ c ≤ 99))) ∧
    (∀ (w n : Int) (s : State), exec (.unmapped w) s = exec (.halt n) s) ∧
    (∀ (m n : Int) (s : State), exec (.write m) s = exec (.write n) s ∧ exec (.halt m) s = exec (.halt n) s) ∧
    decode 0 = .ok (.unmapped 0)

/-- 30_encoding.md section 2 (the spec's own derivation): a word of a mapped opcode lies in [1000, 4399] and its operand
in [0, 99], and an unmapped word is one of the ranges 44_control.md lists. -/
def Obligations.MappedWordsHaveTwoDigitOperands : Prop :=
  ∀ w : Int, validWord w →
    (decodeOp (opcodeOf w) ≠ .unmapped → (1000 ≤ w ∧ w ≤ 4399) ∧ operandInRange (operandOf w)) ∧
      (decodeOp (opcodeOf w) = .unmapped ↔ unmappedWord w)

/-- R11: truncating division and its remainder. -/
def Obligations.DivisionTruncatesTowardZero : Prop :=
  ∀ a b : Int, b ≠ 0 →
    tdiv a b = a.sign * b.sign * (|a| / |b|) ∧ trem a b = a - b * tdiv a b ∧ |trem a b| < |b| ∧
      (trem a b = 0 ∨ (trem a b).sign = a.sign)

/-! ### A step and its cycle -/

/-- A step runs the decoded instruction: the fetch at IC, the decode into IR, OPC and OPR, and then the execute phase
(40_cycle.md, the cycle). The step takes the host's quiet input off the list (log entry 3). -/
def Obligations.StepRunsTheDecodedInstruction : Prop :=
  ∀ (s : State) (i : Instr), hostQuiet s → s.status = .running → 0 ≤ s.ic ∧ s.ic ≤ 99 →
    decode (Memory.read s.mem s.ic.toNat) = .ok i →
    step s = exec i { s with ir := Memory.read s.mem s.ic.toNat,
                             opc := opcodeOf (Memory.read s.mem s.ic.toNat),
                             opr := operandOf (Memory.read s.mem s.ic.toNat), host := s.host.tail }

/-- The instruction-counter guard (60_exceptions.md section 1, the spec's decision D6, log entry 8): IC outside [0, 99]
ends the run with AddressBoundsError; memory, IR, OPC, OPR and everything else keep their values. -/
def Obligations.CounterOutsideMemoryFaultsTheFetch : Prop :=
  ∀ s : State, hostQuiet s → s.status = .running → s.ic < 0 ∨ 99 < s.ic →
    step s = .next { s with status := .faulted, faultKind := .addressBoundsError, host := s.host.tail }

/-- Cycles execute only while RUNNING, RUNNING is entered only at run start, and the core itself leaves RUNNING only for
HALTED or FAULTED (40_cycle.md, its first rule). The rule says that the core makes no step in any other STATUS; that the
model's step then answers the same state, less the quiet entry of the host's list, is the model's choice (log entries 3
and 17, DESIGN CHOICE). -/
def Obligations.CyclesOnlyWhileRunning : Prop :=
  (∀ s : State, hostQuiet s → s.status ≠ .running → step s = .next { s with host := s.host.tail }) ∧
    (∀ s t : State, step s = .next t → s.status ≠ .running → t.status = .running →
      s.status = .ready ∧ ∃ xs rest, s.host = .command (.runStart xs) :: rest) ∧
    (∀ s t : State, hostQuiet s → s.status = .running → step s = .next t →
      t.status = .running ∨ t.status = .halted ∨ t.status = .faulted)

/-- The end of a run by HALT or an unmapped opcode (40_cycle.md's termination rule; the STATUS register is the spec's
decision D11, log entry 15; log entry 16): a cycle ends HALTED exactly when its operation is one of the two, and then
only IR, OPC, OPR and STATUS have changed. -/
def Obligations.OnlyHaltAndUnmappedEndARunHalted : Prop :=
  ∀ (s : State) (i : Instr), hostQuiet s → s.status = .running → 0 ≤ s.ic ∧ s.ic ≤ 99 →
    decode (Memory.read s.mem s.ic.toNat) = .ok i →
    ∃ t, step s = .next t ∧ (t.status = .halted ↔ endsRun i = true) ∧
      (t.status = .halted →
        t = { s with ir := Memory.read s.mem s.ic.toNat, opc := opcodeOf (Memory.read s.mem s.ic.toNat),
                     opr := operandOf (Memory.read s.mem s.ic.toNat), status := .halted, host := s.host.tail })

/-! ### Input and output -/

/-- READ completes (41_io.md section 2): the element at the cursor goes to M[n], the cursor and the counter advance. -/
def Obligations.ReadStoresTheNextInput : Prop :=
  ∀ (n v : Int) (s : State), operandInRange n → s.inputs[s.incur]? = some v → validWord v →
    decode (1000 + n) = .ok (.read n) ∧
      exec (.read n) s = .next { s with mem := Memory.write s.mem n.toNat v, incur := s.incur + 1, ic := s.ic + 1 }

/-- READ fails (41_io.md section 2): exhaustion first, then the range of the element (the spec's decision D8, log entry
9), with nothing else changed (D9, log entry 10). -/
def Obligations.ReadErrorsInOrder : Prop :=
  ∀ (n : Int) (s : State),
    (s.inputs.length ≤ s.incur →
      exec (.read n) s = .next { s with status := .faulted, faultKind := .inputExhaustedError }) ∧
    (∀ v, s.inputs[s.incur]? = some v → ¬ validWord v →
      exec (.read n) s = .next { s with status := .faulted, faultKind := .wordOverflowError })

/-- R75: WRITE only advances the counter, whatever its operand. -/
def Obligations.WriteOnlyAdvances : Prop :=
  ∀ (n : Int) (s : State), operandInRange n →
    decode (1100 + n) = .ok (.write n) ∧ exec (.write n) s = .next { s with ic := s.ic + 1 }

/-! ### Load and store -/

/-- LOAD (42_load_store.md): ACC takes M[n]; the range check kept by the spec's decision D27 raises on an integer that
is no word, which memory never holds. -/
def Obligations.LoadTakesTheMemoryWord : Prop :=
  ∀ (n : Int) (s : State), operandInRange n →
    decode (2000 + n) = .ok (.load n) ∧
      (validWord (Memory.read s.mem n.toNat) →
        exec (.load n) s = .next { s with acc := Memory.read s.mem n.toNat, ic := s.ic + 1 }) ∧
      (¬ validWord (Memory.read s.mem n.toNat) →
        exec (.load n) s = .next { s with status := .faulted, faultKind := .wordOverflowError })

/-- R77: STORE writes ACC to M[n] and reads back as ACC; ACC is unchanged. -/
def Obligations.StoreWritesTheAccumulator : Prop :=
  ∀ (n : Int) (s : State), operandInRange n →
    decode (2100 + n) = .ok (.store n) ∧
      ∃ t, exec (.store n) s = .next t ∧ t = { s with mem := Memory.write s.mem n.toNat s.acc, ic := s.ic + 1 } ∧
        Memory.read t.mem n.toNat = s.acc ∧
        ∀ a : Nat, (a : Int) ≠ n → Memory.read t.mem a = Memory.read s.mem a

/-! ### Arithmetic -/

/-- R80: ADD. -/
def Obligations.AddIsExactOrRaises : Prop :=
  ∀ (n : Int) (s : State), operandInRange n →
    decode (3000 + n) = .ok (.add n) ∧
      (validWord (s.acc + Memory.read s.mem n.toNat) →
        exec (.add n) s = .next { s with acc := s.acc + Memory.read s.mem n.toNat, ic := s.ic + 1 }) ∧
      (¬ validWord (s.acc + Memory.read s.mem n.toNat) →
        exec (.add n) s = raise (.wordOverflow (s.acc + Memory.read s.mem n.toNat)) s)

/-- R81: SUB, ACC minus memory. -/
def Obligations.SubIsExactOrRaises : Prop :=
  ∀ (n : Int) (s : State), operandInRange n →
    decode (3100 + n) = .ok (.sub n) ∧
      (validWord (s.acc - Memory.read s.mem n.toNat) →
        exec (.sub n) s = .next { s with acc := s.acc - Memory.read s.mem n.toNat, ic := s.ic + 1 }) ∧
      (¬ validWord (s.acc - Memory.read s.mem n.toNat) →
        exec (.sub n) s = raise (.wordOverflow (s.acc - Memory.read s.mem n.toNat)) s)

/-- DIV (43_arithmetic.md section 2; the range check after it is the spec's decision D28): the divisor is tested first;
between words the quotient, truncated toward zero, always commits. -/
def Obligations.DivTruncatesOrRaises : Prop :=
  ∀ (n : Int) (s : State), operandInRange n →
    decode (3200 + n) = .ok (.div n) ∧
      (Memory.read s.mem n.toNat = 0 →
        exec (.div n) s = .next { s with status := .faulted, faultKind := .divisionByZeroError }) ∧
      (Memory.read s.mem n.toNat ≠ 0 → validWord s.acc →
        exec (.div n) s = .next { s with acc := s.acc.tdiv (Memory.read s.mem n.toNat), ic := s.ic + 1 }) ∧
      (Memory.read s.mem n.toNat ≠ 0 → ¬ validWord (tdiv s.acc (Memory.read s.mem n.toNat)) →
        exec (.div n) s = .next { s with status := .faulted, faultKind := .wordOverflowError })

/-- R83: MUL. -/
def Obligations.MulIsExactOrRaises : Prop :=
  ∀ (n : Int) (s : State), operandInRange n →
    decode (3300 + n) = .ok (.mul n) ∧
      (validWord (s.acc * Memory.read s.mem n.toNat) →
        exec (.mul n) s = .next { s with acc := s.acc * Memory.read s.mem n.toNat, ic := s.ic + 1 }) ∧
      (¬ validWord (s.acc * Memory.read s.mem n.toNat) →
        exec (.mul n) s = raise (.wordOverflow (s.acc * Memory.read s.mem n.toNat)) s)

/-! ### Control -/

/-- R84: BR, the absolute target. -/
def Obligations.BranchGoesToItsOperand : Prop :=
  ∀ (n : Int) (s : State), operandInRange n →
    decode (4000 + n) = .ok (.br n) ∧ exec (.br n) s = .next { s with ic := n }

/-- R85: BRNEG, taken exactly when ACC is negative. -/
def Obligations.BranchNegativeTestsTheSign : Prop :=
  ∀ (n : Int) (s : State), operandInRange n →
    decode (4100 + n) = .ok (.brneg n) ∧ (s.acc < 0 → exec (.brneg n) s = .next { s with ic := n }) ∧
      (0 ≤ s.acc → exec (.brneg n) s = .next { s with ic := s.ic + 1 })

/-- R86: BRZERO, taken exactly when ACC is 0. -/
def Obligations.BranchZeroTestsForZero : Prop :=
  ∀ (n : Int) (s : State), operandInRange n →
    decode (4200 + n) = .ok (.brzero n) ∧ (s.acc = 0 → exec (.brzero n) s = .next { s with ic := n }) ∧
      (s.acc ≠ 0 → exec (.brzero n) s = .next { s with ic := s.ic + 1 })

/-- HALT and UNMAPPED (44_control.md): nothing but STATUS changes, no error is recorded (STATUS is the spec's decision
D11, log entry 15; the termination test stands in the meaning, log entry 16). -/
def Obligations.HaltAndUnmappedOnlyEndTheRun : Prop :=
  (∀ (n : Int) (s : State), operandInRange n →
      decode (4300 + n) = .ok (.halt n) ∧ exec (.halt n) s = .next { s with status := .halted }) ∧
    ∀ (w : Int) (s : State), unmappedWord w →
      decode w = .ok (.unmapped w) ∧ exec (.unmapped w) s = .next { s with status := .halted }

/-- The address check of the data ports (20_memory.md section 2, the spec's decision D7, log entry 8): an operand outside
[0, 99] makes no access and raises AddressBoundsError. No word decodes to such an instruction. -/
def Obligations.OperandOutsideMemoryRaises : Prop :=
  ∀ (n : Int) (s : State), ¬ operandInRange n →
    exec (.load n) s = raise (.addressBounds n) s ∧ exec (.store n) s = raise (.addressBounds n) s ∧
      exec (.add n) s = raise (.addressBounds n) s ∧ exec (.sub n) s = raise (.addressBounds n) s ∧
      exec (.div n) s = raise (.addressBounds n) s ∧ exec (.mul n) s = raise (.addressBounds n) s ∧
      ∀ v, s.inputs[s.incur]? = some v → validWord v → exec (.read n) s = raise (.addressBounds n) s

/-! ### Frames -/

/-- Frame of LOAD, ADD, SUB, DIV and MUL (10_state.md section 6): only ACC and IC change, or the error entry is taken and
neither does. -/
def Obligations.LoadAndArithmeticFrame : Prop :=
  ∀ (n : Int) (i : Instr) (s t : State),
    i = .load n ∨ i = .add n ∨ i = .sub n ∨ i = .div n ∨ i = .mul n → exec i s = .next t →
    (t.ir = s.ir ∧ t.opc = s.opc ∧ t.opr = s.opr ∧ t.inputs = s.inputs ∧ t.incur = s.incur ∧
      t.loadCause = s.loadCause ∧ t.faultLine = s.faultLine ∧ t.loadAddr = s.loadAddr ∧ t.loadIndex = s.loadIndex ∧
      t.host = s.host ∧ ∀ a : Nat, Memory.read t.mem a = Memory.read s.mem a) ∧
    ((t.ic = s.ic + 1 ∧ t.status = s.status ∧ t.faultKind = s.faultKind) ∨
      (t.acc = s.acc ∧ t.ic = s.ic ∧ t.status = .faulted ∧ runtimeKind t.faultKind))

/-- Frame of STORE and READ (10_state.md section 6): in memory only the cell at the effective address of the operand can
change; ACC never does; the inputs never do; INCUR moves only in a READ that completes. That a failing READ leaves INCUR
and memory as they were is the spec's decision D9 (log entry 10, unsafe). -/
def Obligations.StoringFrame : Prop :=
  ∀ (n : Int) (i : Instr) (s t : State), i = .store n ∨ i = .read n → exec i s = .next t →
    (∀ a : Nat, (a : Int) ≠ effectiveAddress n → Memory.read t.mem a = Memory.read s.mem a) ∧
    (t.acc = s.acc ∧ t.ir = s.ir ∧ t.opc = s.opc ∧ t.opr = s.opr ∧ t.inputs = s.inputs ∧
      t.loadCause = s.loadCause ∧ t.faultLine = s.faultLine ∧ t.loadAddr = s.loadAddr ∧ t.loadIndex = s.loadIndex ∧
      t.host = s.host) ∧
    ((t.ic = s.ic + 1 ∧ t.status = s.status ∧ t.faultKind = s.faultKind ∧
        t.incur = (if i = .read n then s.incur + 1 else s.incur)) ∨
      (t.ic = s.ic ∧ t.status = .faulted ∧ runtimeKind t.faultKind ∧ t.incur = s.incur ∧ t.mem = s.mem))

/-- Frame of WRITE, BR, BRNEG, BRZERO, HALT and UNMAPPED (10_state.md section 6): only IC changes, or, for the two that
end the run, only STATUS. That `exec` of these two itself sets STATUS HALTED is the model's placing of the cycle's
termination test (log entry 16, DEDUCED; the execute phase of 44_control.md changes no state); the STATUS register is
the spec's decision D11 (log entry 15). -/
def Obligations.NonstoringControlFrame : Prop :=
  ∀ (n : Int) (i : Instr) (s t : State),
    i = .write n ∨ i = .br n ∨ i = .brneg n ∨ i = .brzero n ∨ i = .halt n ∨ i = .unmapped n → exec i s = .next t →
    (t.acc = s.acc ∧ t.ir = s.ir ∧ t.opc = s.opc ∧ t.opr = s.opr ∧ t.inputs = s.inputs ∧ t.incur = s.incur ∧
      t.faultKind = s.faultKind ∧ t.loadCause = s.loadCause ∧ t.faultLine = s.faultLine ∧ t.loadAddr = s.loadAddr ∧
      t.loadIndex = s.loadIndex ∧ t.host = s.host ∧ ∀ a : Nat, Memory.read t.mem a = Memory.read s.mem a) ∧
    (endsRun i = true → t.ic = s.ic ∧ t.status = .halted) ∧ (endsRun i = false → t.status = s.status)

/-! ### Errors and whole-machine rules -/

/-- Error entry (60_exceptions.md section 2, the spec's decisions D9 and D11, log entries 10 and 15): what any failing
cycle leaves: STATUS and FAULT_KIND written; ACC, IC, memory and INCUR as before the cycle. -/
def Obligations.FailingCycleChangesOnlyTheRecord : Prop :=
  ∀ s t : State, hostQuiet s → s.status = .running → step s = .next t → t.status = .faulted →
    runtimeKind t.faultKind ∧ t.acc = s.acc ∧ t.ic = s.ic ∧ t.mem = s.mem ∧ t.incur = s.incur ∧ t.inputs = s.inputs ∧
      t.loadCause = s.loadCause ∧ t.faultLine = s.faultLine ∧
      (0 ≤ s.ic ∧ s.ic ≤ 99 → t.ir = Memory.read s.mem s.ic.toNat ∧ t.opc = opcodeOf t.ir ∧ t.opr = operandOf t.ir) ∧
      (s.ic < 0 ∨ 99 < s.ic → t.ir = s.ir ∧ t.opc = s.opc ∧ t.opr = s.opr)

/-- There is no return from an error or a halt (60_exceptions.md section 2): whatever the host gives at one step, only a
reset or an accepted load start leaves HALTED, FAULTED or LOAD_FAILED, and otherwise nothing but the list of the host's
inputs changes (log entries 3 and 13). -/
def Obligations.OnlyResetOrLoadLeavesATerminalStatus : Prop :=
  ∀ s : State, s.status = .halted ∨ s.status = .faulted ∨ s.status = .loadFailed →
    s.host.head? ≠ some (.command .reset) → s.host.head? ≠ some (.command .loadStart) →
    step s = .next { s with host := s.host.tail }

/-- What writes memory (10_state.md section 3): a cell that a step changes is the operand of the STORE or READ it
fetched, or the step is a host's load start, token or reset. -/
def Obligations.OnlyStoreReadAndTheHostWriteMemory : Prop :=
  ∀ (s t : State) (a : Nat), step s = .next t → Memory.read t.mem a ≠ Memory.read s.mem a →
    (hostQuiet s ∧ s.status = .running ∧ (decode (Memory.read s.mem s.ic.toNat) = .ok (.store a) ∨
      decode (Memory.read s.mem s.ic.toNat) = .ok (.read a))) ∨
    s.host.head? = some (.command .loadStart) ∨ s.host.head? = some (.command .reset) ∨
    ∃ tok, s.host.head? = some (.command (.token tok))

/-- What writes ACC and INCUR during a run (10_state.md sections 2 and 4; INCUR as a register is the spec's decision
D20): ACC only LOAD, ADD, SUB, DIV and MUL; INCUR only READ, by adding 1. -/
def Obligations.WritersOfAccumulatorAndCursor : Prop :=
  ∀ s t : State, hostQuiet s → step s = .next t →
    (t.acc ≠ s.acc → ∃ n, decode (Memory.read s.mem s.ic.toNat) = .ok (.load n) ∨
      decode (Memory.read s.mem s.ic.toNat) = .ok (.add n) ∨ decode (Memory.read s.mem s.ic.toNat) = .ok (.sub n) ∨
      decode (Memory.read s.mem s.ic.toNat) = .ok (.div n) ∨ decode (Memory.read s.mem s.ic.toNat) = .ok (.mul n)) ∧
    (t.incur ≠ s.incur → t.incur = s.incur + 1 ∧ ∃ n, decode (Memory.read s.mem s.ic.toNat) = .ok (.read n))

/-- The one way out of memory (60_exceptions.md section 1, 10_state.md section 2): IC reaches 100 in a cycle only by the
sequential advance of the instruction at 99, never by a taken branch. -/
def Obligations.CounterLeavesMemoryOnlyFromTheLastAddress : Prop :=
  ∀ s t : State, hostQuiet s → s.status = .running → 0 ≤ s.ic ∧ s.ic ≤ 99 → step s = .next t →
    (0 ≤ t.ic ∧ t.ic ≤ 99) ∨ (s.ic = 99 ∧ t.ic = 100 ∧ t.status = .running)

/-- A fetch sees the store of the instruction before it (20_memory.md section 3, 70_reset_and_hazards.md section 2): a
STORE to the next address makes ACC the next instruction, and the STORE itself is finished as fetched. -/
def Obligations.StoreToTheNextAddressIsFetchedNext : Prop :=
  ∀ (s : State) (j : Instr), s.host = [] → s.status = .running → 0 ≤ s.ic ∧ s.ic ≤ 98 →
    decode (Memory.read s.mem s.ic.toNat) = .ok (.store (s.ic + 1)) → decode s.acc = .ok j →
    ∃ t, step s = .next t ∧ t.ir = Memory.read s.mem s.ic.toNat ∧ t.ic = s.ic + 1 ∧
      step t = exec j { t with ir := s.acc, opc := opcodeOf s.acc, opr := operandOf s.acc }

/-- R71: a run is a function of memory and inputs: two READY machines with the same memory, given the same run start and
then left alone, agree after any number of steps. -/
def Obligations.RunDependsOnlyOnMemoryAndInputs : Prop :=
  ∀ (s₁ s₂ : State) (xs : List Int) (k : Nat), s₁.status = .ready → s₂.status = .ready → s₁.mem = s₂.mem →
    memoryInvariant s₁ → memoryInvariant s₂ → s₁.host = [.command (.runStart xs)] →
    s₂.host = [.command (.runStart xs)] → Host.Core.run core (k + 1) s₁ = Host.Core.run core (k + 1) s₂

/-- A branch to its own address (40_cycle.md's rule on runs without end, log entry 3): with a quiet host the machine
stays RUNNING after any number of steps, and memory, ACC and INCUR never change. -/
def Obligations.BranchToItselfRunsForever : Prop :=
  ∀ (s : State) (k : Nat), s.host = [] → s.status = .running → 0 ≤ s.ic ∧ s.ic ≤ 99 →
    Memory.read s.mem s.ic.toNat = 4000 + s.ic →
    ∃ t : State, Host.Core.run core k s = .next t ∧ t.status = .running ∧ t.ic = s.ic ∧ t.mem = s.mem ∧ t.acc = s.acc ∧
      t.incur = s.incur

/-! ### Invariants -/

/-- The word invariant (10_state.md section 3): every step keeps ACC, IR and every memory word in the word range. -/
def Obligations.EveryStepKeepsTheWordInvariant : Prop :=
  ∀ s t : State, wordInvariant s → step s = .next t → wordInvariant t

/-- The counter stays in [0, 100], OPC and OPR in [-99, 99] and `IR = 100 * OPC + OPR` (10_state.md section 2; for
negative words the spec's decision D5, log entry 7). -/
def Obligations.EveryStepKeepsTheRegisterInvariant : Prop :=
  ∀ s t : State, registerInvariant s → step s = .next t → registerInvariant t

/-- Memory keeps its canonical form (log entry 1) and the load in progress its counters, with zeros from `k` on
(20_memory.md section 1, log entry 4). -/
def Obligations.EveryStepKeepsTheMemoryInvariant : Prop :=
  ∀ s t : State, memoryInvariant s → step s = .next t → memoryInvariant t

/-- The fault record agrees with STATUS (10_state.md section 5, the spec's decisions D10 and D11, log entry 15). -/
def Obligations.EveryStepKeepsTheFaultRecord : Prop :=
  ∀ s t : State, recordInvariant s → step s = .next t → recordInvariant t

/-- No stop is reachable: from a state that meets the invariants every step answers a next state that meets them too
(10_state.md's invariants together; log entry 5). -/
def Obligations.MachineNeverStopsWithinItsInvariant : Prop :=
  ∀ s : State, machineInvariant s → ∃ t, step s = .next t ∧ machineInvariant t

/-- The state after reset meets the invariants. -/
def Obligations.ResetMeetsTheInvariant : Prop := machineInvariant State.reset

/-! ### Reset, load, run start -/

/-- Reset (70_reset_and_hazards.md section 1; the zero of ACC, IR, OPC and OPR is the spec's decision D4, log entry 6;
reset itself D24, log entry 14): accepted in every STATUS, it leaves IDLE, 100 zero words and every register 0. -/
def Obligations.ResetClearsEverything : Prop :=
  ∀ (s : State) (rest : List HostInput), s.host = .command .reset :: rest →
    ∃ t, step s = .next t ∧ (∀ a : Nat, Memory.read t.mem a = 0) ∧ t.acc = 0 ∧ t.ic = 0 ∧ t.ir = 0 ∧ t.opc = 0 ∧
      t.opr = 0 ∧ t.inputs = [] ∧ t.incur = 0 ∧ t.status = .idle ∧ t.faultKind = .noFault ∧ t.loadCause = .noCause ∧
      t.faultLine = 0 ∧ t = { State.reset with host := rest }

/-- R32: load start, in every STATUS except LOADING and RUNNING: memory zeroed, STATUS LOADING, the fault record
cleared, every other register untouched. -/
def Obligations.LoadStartZeroesMemory : Prop :=
  ∀ (s : State) (rest : List HostInput), s.host = .command .loadStart :: rest → s.status ≠ .loading →
    s.status ≠ .running →
    ∃ t, step s = .next t ∧ (∀ a : Nat, Memory.read t.mem a = 0) ∧ t.status = .loading ∧ t.faultKind = .noFault ∧
      t.loadCause = .noCause ∧ t.faultLine = 0 ∧ t.acc = s.acc ∧ t.ic = s.ic ∧ t.ir = s.ir ∧ t.opc = s.opc ∧
      t.opr = s.opr ∧ t.inputs = s.inputs ∧ t.incur = s.incur ∧ t.host = rest

/-- R35, R36: a malformed token and an out-of-range literal that is not the sentinel fail the load, each with its
cause. What failing a load leaves is stated in FirstBadTokenEndsTheLoad. -/
def Obligations.BadTokensFailTheLoad : Prop :=
  ∀ (s : State) (rest : List HostInput), s.status = .loading →
    (s.host = .command (.token .malformed) :: rest →
      step s = .next (loadFail .notAnInteger { s with host := rest })) ∧
    (∀ v : Int, s.host = .command (.token (.int v)) :: rest → v ≠ -99999 → ¬ validWord v →
      step s = .next (loadFail .outOfRange { s with host := rest }))

/-- The loader's other tokens and signals (20_memory.md section 1; the spec's decisions D13 to D15, log entry 12): the
sentinel and the end of the source finish the load, the word past address 99 and the unreadable signal fail it, any
other word goes to the next address. -/
def Obligations.LoaderTokenBySignal : Prop :=
  ∀ (s : State) (rest : List HostInput), s.status = .loading →
    (s.host = .command (.token (.int (-99999))) :: rest ∨ s.host = .command .endOfSource :: rest →
      step s = .next { s with status := .ready, loadAddr := 0, loadIndex := 0, host := rest }) ∧
    (s.host = .command .unreadable :: rest →
      step s = .next { s with status := .loadFailed, faultKind := .loadError, loadCause := .sourceUnreadable,
                              faultLine := s.loadIndex, loadAddr := 0, loadIndex := 0, host := rest }) ∧
    (∀ v : Int, s.host = .command (.token (.int v)) :: rest → validWord v →
      (s.loadAddr = 100 →
        step s = .next { s with status := .loadFailed, faultKind := .loadError, loadCause := .tooLong,
                                faultLine := s.loadIndex, loadAddr := 0, loadIndex := 0, host := rest }) ∧
      (s.loadAddr < 100 →
        step s = .next { s with mem := Memory.write s.mem s.loadAddr v, loadAddr := s.loadAddr + 1,
                                loadIndex := s.loadIndex + 1, host := rest }))

/-- A whole source (20_memory.md section 1, vectors L1 to L20; the sentinel by value is D13, log entry 12): at most 100
words and then the end of the source or the sentinel, from any STATUS that accepts a load, end READY with the words in
order from address 0 and zeros above, an empty fault record and the registers untouched. That memory is left in its
canonical form is a clause about the model's own representation (log entry 1, DESIGN CHOICE). -/
def Obligations.WholeSourceLoads : Prop :=
  ∀ (s : State) (ws : List Int) (last : Command) (rest : List HostInput),
    s.status ≠ .loading → s.status ≠ .running → (∀ w ∈ ws, validWord w) → ws.length ≤ 100 →
    last = .endOfSource ∨ last = .token (.int (-99999)) →
    s.host = .command .loadStart :: (ws.map (fun w => .command (.token (.int w))) ++ .command last :: rest) →
    ∃ t : State, Host.Core.run core (ws.length + 2) s = .next t ∧ t.status = .ready ∧
      (∀ a : Nat, Memory.read t.mem a = ws.getD a 0) ∧ Memory.wf t.mem = true ∧ t.host = rest ∧
      t.faultKind = .noFault ∧ t.loadCause = .noCause ∧ t.faultLine = 0 ∧ t.acc = s.acc ∧ t.ic = s.ic ∧ t.ir = s.ir ∧
      t.opc = s.opc ∧ t.opr = s.opr ∧ t.inputs = s.inputs ∧ t.incur = s.incur

/-- A failing source (20_memory.md section 1, vectors L4 to L23; the spec's decisions D14 and D15, log entry 12): the
first token that is not accepted ends the load with its cause and its index, the words before it stay, the rest is 0. -/
def Obligations.FirstBadTokenEndsTheLoad : Prop :=
  ∀ (s : State) (ws : List Int) (bad : Command) (cause : LoadCause) (rest : List HostInput),
    s.status ≠ .loading → s.status ≠ .running → (∀ w ∈ ws, validWord w) → ws.length ≤ 100 →
    ((bad = .unreadable ∧ cause = .sourceUnreadable) ∨ (bad = .token .malformed ∧ cause = .notAnInteger) ∨
      (∃ v, bad = .token (.int v) ∧ v ≠ -99999 ∧ ¬ validWord v ∧ cause = .outOfRange) ∨
      (∃ v, bad = .token (.int v) ∧ validWord v ∧ ws.length = 100 ∧ cause = .tooLong)) →
    s.host = .command .loadStart :: (ws.map (fun w => .command (.token (.int w))) ++ .command bad :: rest) →
    ∃ t : State, Host.Core.run core (ws.length + 2) s = .next t ∧ t.status = .loadFailed ∧ t.faultKind = .loadError ∧
      t.loadCause = cause ∧ t.faultLine = ws.length ∧ (∀ a : Nat, Memory.read t.mem a = ws.getD a 0) ∧ t.host = rest

/-- Run start (70_reset_and_hazards.md section 1; the zero of ACC, IR, OPC and OPR is the spec's decision D4, log entry
6): in READY, with memory unchanged. -/
def Obligations.RunStartBeginsAtAddressZero : Prop :=
  ∀ (s : State) (xs : List Int) (rest : List HostInput), s.status = .ready →
    s.host = .command (.runStart xs) :: rest →
    step s = .next { s with inputs := xs, incur := 0, ic := 0, acc := 0, ir := 0, opc := 0, opr := 0,
                            faultKind := .noFault, loadCause := .noCause, faultLine := 0, status := .running,
                            host := rest }

/-- The host's sequencing duties (70_reset_and_hazards.md section 1, the spec's decision D25, log entry 13): a command
that its STATUS does not accept changes nothing but the list of the host's inputs. -/
def Obligations.CommandOutOfSequenceHasNoEffect : Prop :=
  ∀ (s : State) (c : Command) (rest : List HostInput), s.host = .command c :: rest → c ≠ .reset →
    (c = .loadStart → s.status = .loading ∨ s.status = .running) →
    ((∃ xs, c = .runStart xs) → s.status ≠ .ready) →
    ((∃ tok, c = .token tok) ∨ c = .endOfSource ∨ c = .unreadable → s.status ≠ .loading) →
    step s = .next { s with host := rest }

/-- How one word comes to run first (log entries 2 and 3, the model's choice): a step from `withFetchWord` is the
instruction that `decodeTableWord` reads. -/
def Obligations.PlacedWordRunsNext : Prop :=
  ∀ (s : State) (nbits w : Nat) (i : Instr), decodeTableWord nbits w = some i →
    ∃ t, step (s.withFetchWord nbits w) = exec i t ∧ t.ir = wordOfBits w ∧ t.opc = opcodeOf (wordOfBits w) ∧
      t.opr = operandOf (wordOfBits w) ∧ (0 ≤ t.ic ∧ t.ic ≤ 99) ∧ (0 ≤ s.ic ∧ s.ic ≤ 99 → t.ic = s.ic) ∧
      t.acc = s.acc ∧ t.inputs = s.inputs ∧ t.incur = s.incur ∧ t.status = .running ∧ t.host = s.host ∧
      Memory.read t.mem t.ic.toNat = wordOfBits w ∧
      ∀ a : Nat, (a : Int) ≠ t.ic → Memory.read t.mem a = Memory.read s.mem a

/-! ### Source text and observation -/

/-- Which lines are integer literals and of what value (20_memory.md section 1, the spec's decision D12, log entry 11):
`[+-]?[0-9]+` between spaces and tabs, and nothing else. -/
def Obligations.LineTokenIsTheDecimalLiteral : Prop :=
  ∀ (line : List Char) (v : Int), lineToken line = .int v ↔
    ∃ before sign digits after : List Char,
      line = before ++ sign ++ digits ++ after ∧ (∀ c ∈ before, c = ' ' ∨ c = '\t') ∧ (∀ c ∈ after, c = ' ' ∨ c = '\t') ∧
      (sign = [] ∨ sign = ['+'] ∨ sign = ['-']) ∧ digits ≠ [] ∧ (∀ c ∈ digits, 48 ≤ c.toNat ∧ c.toNat ≤ 57) ∧
      v = (if sign = ['-'] then -1 else 1) * digits.foldl (fun (x : Int) c => 10 * x + ((c.toNat : Int) - 48)) 0

/-- How text splits into lines (20_memory.md section 1, the spec's decision D12, log entry 11): every line has its own
terminator, CRLF where its flag is set and LF alone where it is not; a line before CRLF may itself end in CR, one before
LF alone cannot, for that CR would belong to the terminator; a last line without a terminator is a line unless it is
empty. Every text is of this form. -/
def Obligations.SourceTextSplitsAtLineFeeds : Prop :=
  ∀ (ls : List (List Char × Bool)) (last : List Char),
    (∀ l ∈ ls, '\n' ∉ l.1 ∧ (l.2 = false → l.1.getLast? ≠ some '\r')) → '\n' ∉ last →
    sourceLines ((ls.map (fun l => l.1 ++ (if l.2 then ['\r', '\n'] else ['\n']))).flatten ++ last) =
      ls.map Prod.fst ++ (if last = [] then [] else [last])

/-- The observation port (60_exceptions.md section 4) and the final state (40_cycle.md, end of a run), in every STATUS:
the five registers, the 100 words in address order, INCUR, FAULT_LINE, and each value of STATUS, FAULT_KIND and
LOAD_CAUSE by its code (10_state.md section 5). The final state exists exactly when STATUS is HALTED or FAULTED and is
what the port shows. The codes are the spec's decisions D10 and D11 (log entry 15), reading in every STATUS is D26 (log
entry 18). -/
def Obligations.ObservationShowsTheState : Prop :=
  ∀ s : State,
    ((observe s).acc = s.acc ∧ (observe s).ic = s.ic ∧ (observe s).ir = s.ir ∧ (observe s).opc = s.opc ∧
      (observe s).opr = s.opr ∧ (observe s).incur = s.incur ∧ (observe s).faultLine = s.faultLine) ∧
    ((observe s).words.length = 100 ∧
      ∀ a : Nat, a < 100 → (observe s).words[a]? = some (Memory.read s.mem a)) ∧
    (((observe s).status = 0 ↔ s.status = .idle) ∧ ((observe s).status = 1 ↔ s.status = .loading) ∧
      ((observe s).status = 2 ↔ s.status = .ready) ∧ ((observe s).status = 3 ↔ s.status = .running) ∧
      ((observe s).status = 4 ↔ s.status = .halted) ∧ ((observe s).status = 5 ↔ s.status = .faulted) ∧
      ((observe s).status = 6 ↔ s.status = .loadFailed)) ∧
    (((observe s).faultKind = 0 ↔ s.faultKind = .noFault) ∧ ((observe s).faultKind = 1 ↔ s.faultKind = .loadError) ∧
      ((observe s).faultKind = 2 ↔ s.faultKind = .wordOverflowError) ∧
      ((observe s).faultKind = 3 ↔ s.faultKind = .divisionByZeroError) ∧
      ((observe s).faultKind = 4 ↔ s.faultKind = .inputExhaustedError) ∧
      ((observe s).faultKind = 5 ↔ s.faultKind = .addressBoundsError)) ∧
    (((observe s).loadCause = 0 ↔ s.loadCause = .noCause) ∧
      ((observe s).loadCause = 1 ↔ s.loadCause = .sourceUnreadable) ∧
      ((observe s).loadCause = 2 ↔ s.loadCause = .notAnInteger) ∧
      ((observe s).loadCause = 3 ↔ s.loadCause = .outOfRange) ∧ ((observe s).loadCause = 4 ↔ s.loadCause = .tooLong)) ∧
    (s.status ≠ .halted → s.status ≠ .faulted → finalState s = none) ∧
    (s.status = .halted ∨ s.status = .faulted →
      finalState s = some { acc := s.acc, ic := s.ic, ir := s.ir, opc := s.opc, opr := s.opr,
                            words := (observe s).words, incur := s.incur, status := s.status,
                            faultKind := s.faultKind })
end

