-- ==== Sys2Proof/Laws/Word.lean ====
section
/-! SUPPORT. The truncating division of R11 in the library's terms, and the opcode and operand of a word in terms that
`omega` reads. -/

namespace Sys2Proof

/-- The formula of R11 is the library's truncating division. -/
theorem tdiv_eq_library (a b : Int) : tdiv a b = Int.tdiv a b := by
  unfold tdiv
  rcases a with (_ | a) | a <;> rcases b with (_ | b) | b <;>
    simp [Int.tdiv, Int.sign, abs_of_nonneg (Int.le_add_one (Int.natCast_nonneg _))]

/-- The remainder of R11 is the library's truncating remainder. -/
theorem trem_eq_library (a b : Int) : trem a b = Int.tmod a b := by
  rw [trem, tdiv_eq_library, Int.tmod_def]

/-- `a = b * tdiv(a, b) + trem(a, b)`. -/
theorem tdiv_add_trem (a b : Int) : b * tdiv a b + trem a b = a := by
  unfold trem
  omega

theorem opcodeOf_of_nonneg {w : Int} (h : 0 ≤ w) : opcodeOf w = w / 100 := by
  rw [opcodeOf, tdiv_eq_library, Int.tdiv_eq_ediv_of_nonneg h]

theorem opcodeOf_of_neg {w : Int} (h : w < 0) : opcodeOf w = -(-w / 100) := by
  have e : w = -(-w) := by omega
  rw [opcodeOf, tdiv_eq_library]
  conv_lhs => rw [e]
  rw [Int.neg_tdiv, Int.tdiv_eq_ediv_of_nonneg (by omega)]

theorem operandOf_eq (w : Int) : operandOf w = w - 100 * opcodeOf w := rfl

/-- The opcode and operand of a word lie in [-99, 99], and the decode is exact. -/
theorem split_of_valid {w : Int} (h : validWord w) :
    (-99 ≤ opcodeOf w ∧ opcodeOf w ≤ 99) ∧ (-99 ≤ operandOf w ∧ operandOf w ≤ 99) ∧
      w = 100 * opcodeOf w + operandOf w := by
  have hr := operandOf_eq w
  rcases Int.lt_or_le w 0 with hw | hw
  · have := opcodeOf_of_neg hw
    omega
  · have := opcodeOf_of_nonneg hw
    omega

/-- The two halves of the word of an instruction with opcode `c` and operand `n`. -/
theorem split_wordFor {c n : Int} (hc : 0 ≤ c) (hn : operandInRange n) :
    opcodeOf (wordFor c n) = c ∧ operandOf (wordFor c n) = n := by
  have hr := operandOf_eq (wordFor c n)
  have ho := opcodeOf_of_nonneg (w := wordFor c n) (by unfold wordFor; omega)
  unfold wordFor at *
  omega

end Sys2Proof
end

