-- ==== Sys2Proof/Laws/Decode.lean ====
section
/-! SUPPORT. What the decoder can answer, said once. -/

namespace Sys2Proof

/-- The thirteen answers of `decodeOp`. -/
theorem decodeOp_cases (c : Int) :
    (c = 10 ∧ decodeOp c = .read) ∨ (c = 11 ∧ decodeOp c = .write) ∨ (c = 20 ∧ decodeOp c = .load) ∨
      (c = 21 ∧ decodeOp c = .store) ∨ (c = 30 ∧ decodeOp c = .add) ∨ (c = 31 ∧ decodeOp c = .sub) ∨
      (c = 32 ∧ decodeOp c = .div) ∨ (c = 33 ∧ decodeOp c = .mul) ∨ (c = 40 ∧ decodeOp c = .br) ∨
      (c = 41 ∧ decodeOp c = .brneg) ∨ (c = 42 ∧ decodeOp c = .brzero) ∨ (c = 43 ∧ decodeOp c = .halt) ∨
      (decodeOp c = .unmapped ∧ c ≠ 10 ∧ c ≠ 11 ∧ c ≠ 20 ∧ c ≠ 21 ∧ c ≠ 30 ∧ c ≠ 31 ∧ c ≠ 32 ∧ c ≠ 33 ∧ c ≠ 40 ∧
        c ≠ 41 ∧ c ≠ 42 ∧ c ≠ 43) := by
  by_cases h : c ∈ opcodeTable.map OpcodeRow.opc
  · simp only [opcodeTable, List.cons_append, List.nil_append, List.map_cons, List.map_nil, List.mem_cons,
      List.not_mem_nil, or_false] at h
    rcases h with h | h | h | h | h | h | h | h | h | h | h | h <;> subst h <;> decide
  · have hf : opcodeTable.find? (fun r => r.opc == c) = none := by
      rw [List.find?_eq_none]
      intro r hr hb
      exact h (List.mem_map.2 ⟨r, hr, by simpa using hb⟩)
    have hu : decodeOp c = .unmapped := by rw [decodeOp, hf]
    simp only [opcodeTable, List.cons_append, List.nil_append, List.map_cons, List.map_nil, List.mem_cons,
      List.not_mem_nil, or_false, not_or] at h
    iterate 12 right
    exact ⟨hu, h⟩

/-- A decoded integer is a word, and the instruction is the one its opcode names. -/
theorem decode_ok_iff {w : Int} {i : Instr} :
    decode w = .ok i ↔ validWord w ∧ i = instrOf (decodeOp (opcodeOf w)) w := by
  unfold decode
  split
  · next h => exact ⟨fun e => ⟨h, (Except.ok.inj e).symm⟩, fun e => by rw [e.2]⟩
  · next h => exact ⟨fun e => (nomatch e), fun e => absurd e.1 h⟩

/-- Every word decodes (R52, R61). -/
theorem decode_of_valid {w : Int} (h : validWord w) : decode w = .ok (instrOf (decodeOp (opcodeOf w)) w) :=
  decode_ok_iff.2 ⟨h, rfl⟩

/-- An integer that is no word is rejected by name. -/
theorem decode_of_not_valid {w : Int} (h : ¬ validWord w) : decode w = .error .notAWord := if_neg h

/-- The operand of a word with a mapped opcode is two digits (R56). -/
theorem operandInRange_of_opcode {w : Int} (h : 1 ≤ opcodeOf w) : operandInRange (operandOf w) := by
  have hr := operandOf_eq w
  rcases Int.lt_or_le w 0 with hw | hw
  · have := opcodeOf_of_neg hw
    omega
  · have := opcodeOf_of_nonneg hw
    omega

/-- The decoder's answers are well formed. -/
theorem decode_wellFormed {w : Int} {i : Instr} (h : decode w = .ok i) : wellFormed i = true := by
  obtain ⟨hv, rfl⟩ := decode_ok_iff.1 h
  rcases decodeOp_cases (opcodeOf w) with
      ⟨hc, ho⟩ | ⟨hc, ho⟩ | ⟨hc, ho⟩ | ⟨hc, ho⟩ | ⟨hc, ho⟩ | ⟨hc, ho⟩ | ⟨hc, ho⟩ | ⟨hc, ho⟩ | ⟨hc, ho⟩ | ⟨hc, ho⟩ |
      ⟨hc, ho⟩ | ⟨hc, ho⟩ | ⟨ho, hc⟩ <;> rw [ho]
  case inr.inr.inr.inr.inr.inr.inr.inr.inr.inr.inr.inr =>
    have hu : unmappedWord w := by
      rcases Int.lt_or_le w 0 with hw | hw
      · omega
      · have := opcodeOf_of_nonneg hw
        omega
    simpa only [instrOf, wellFormed, decide_eq_true_eq] using hu
  all_goals
    have hn := operandInRange_of_opcode (w := w) (by omega)
    simpa only [instrOf, wellFormed, decide_eq_true_eq] using hn

end Sys2Proof
end

