-- ==== Sys2Proof/Laws/Memory.lean ====
section
/-! SUPPORT. Read over write, and that every memory operation keeps the canonical form. -/

namespace Sys2Proof.Machine

@[simp] theorem unlistedWord_eq_zero : unlistedWord = 0 := rfl

@[simp] theorem read_empty (a : Nat) : Memory.read [] a = 0 := rfl

theorem read_cons (c : Nat × Int) (m : Memory) (a : Nat) :
    Memory.read (c :: m) a = if c.1 = a then c.2 else Memory.read m a := rfl

theorem read_place_same (m : Memory) (a : Nat) (v : Int) (h : ∀ c ∈ m, c.1 ≠ a) :
    Memory.read (Memory.place m a v) a = v := by
  induction m with
  | nil => simp [Memory.place, Memory.read]
  | cons c m ih =>
    have hc := h c List.mem_cons_self
    unfold Memory.place
    split
    · simp [Memory.read]
    · rw [read_cons, if_neg hc, ih (fun d hd => h d (List.mem_cons_of_mem c hd))]

theorem read_place_other (m : Memory) {a b : Nat} (v : Int) (h : b ≠ a) :
    Memory.read (Memory.place m a v) b = Memory.read m b := by
  induction m with
  | nil => simp [Memory.place, Memory.read, h.symm]
  | cons c m ih =>
    unfold Memory.place
    split
    · rw [read_cons, if_neg h.symm]
    · rw [read_cons, read_cons, ih]

theorem erase_cons (c : Nat × Int) (m : Memory) (a : Nat) :
    Memory.erase (c :: m) a = if c.1 = a then Memory.erase m a else c :: Memory.erase m a := by
  by_cases h : c.1 = a <;> simp [Memory.erase, h]

theorem mem_erase {m : Memory} {a : Nat} {c : Nat × Int} (h : c ∈ Memory.erase m a) : c ∈ m ∧ c.1 ≠ a := by
  simpa [Memory.erase] using h

theorem read_erase (m : Memory) (a b : Nat) :
    Memory.read (Memory.erase m a) b = if b = a then 0 else Memory.read m b := by
  induction m with
  | nil => simp [Memory.erase]
  | cons c m ih =>
    rw [erase_cons, read_cons]
    by_cases h : c.1 = a
    · rw [if_pos h, ih]
      by_cases hb : b = a
      · simp [hb]
      · rw [if_neg hb, if_neg hb, if_neg (fun e => hb (e.symm.trans h))]
    · rw [if_neg h, read_cons, ih]
      by_cases hb : b = a
      · subst hb
        simp [h]
      · simp [hb]

/-- A read of the written address gives the word written. -/
@[simp] theorem read_write_same (m : Memory) (a : Nat) (v : Int) : Memory.read (Memory.write m a v) a = v := by
  unfold Memory.write
  split
  · next h => simp [read_erase, h]
  · exact read_place_same _ a v (fun c hc => (mem_erase hc).2)

/-- A write leaves every other address alone. -/
theorem read_write_other (m : Memory) {a b : Nat} (v : Int) (h : b ≠ a) :
    Memory.read (Memory.write m a v) b = Memory.read m b := by
  unfold Memory.write
  split
  · simp [read_erase, h]
  · rw [read_place_other _ v h, read_erase, if_neg h]

/-- Both laws in one. -/
theorem read_write (m : Memory) (a b : Nat) (v : Int) :
    Memory.read (Memory.write m a v) b = if b = a then v else Memory.read m b := by
  split
  · next h => rw [h, read_write_same]
  · next h => exact read_write_other m v h

theorem wf_cons (c : Nat × Int) (m : Memory) :
    Memory.wf (c :: m) = true ↔
      c.1 < 100 ∧ c.2 ≠ 0 ∧ (∀ d ∈ m, c.1 < d.1) ∧ Memory.wf m = true := by
  simp only [Memory.wf, Bool.and_eq_true, decide_eq_true_eq, List.all_eq_true, and_assoc]
  rfl

theorem wf_empty : Memory.wf [] = true := rfl

theorem wf_erase {m : Memory} (a : Nat) (h : Memory.wf m = true) : Memory.wf (Memory.erase m a) = true := by
  induction m with
  | nil => exact h
  | cons c m ih =>
    obtain ⟨hb, hv, hlt, hm⟩ := (wf_cons c m).1 h
    rw [erase_cons]
    split
    · exact ih hm
    · exact (wf_cons _ _).2 ⟨hb, hv, fun d hd => hlt d (mem_erase hd).1, ih hm⟩

theorem mem_place {m : Memory} {a : Nat} {v : Int} {d : Nat × Int} (h : d ∈ Memory.place m a v) :
    d = (a, v) ∨ d ∈ m := by
  induction m with
  | nil => simpa [Memory.place] using h
  | cons c m ih =>
    unfold Memory.place at h
    split at h
    · simpa using h
    · rcases List.mem_cons.1 h with rfl | h
      · exact .inr List.mem_cons_self
      · exact (ih h).imp id (List.mem_cons_of_mem c)

theorem wf_place {m : Memory} {a : Nat} {v : Int} (h : Memory.wf m = true) (ha : a < 100) (hv : v ≠ 0)
    (hn : ∀ c ∈ m, c.1 ≠ a) : Memory.wf (Memory.place m a v) = true := by
  induction m with
  | nil => exact (wf_cons _ _).2 ⟨ha, hv, by simp, rfl⟩
  | cons c m ih =>
    obtain ⟨hb, hcv, hlt, hm⟩ := (wf_cons c m).1 h
    have hc := hn c List.mem_cons_self
    unfold Memory.place
    split
    · next hac =>
      refine (wf_cons _ _).2 ⟨ha, hv, fun d hd => ?_, h⟩
      rcases List.mem_cons.1 hd with rfl | hd
      · exact hac
      · exact lt_trans hac (hlt d hd)
    · next hac =>
      refine (wf_cons _ _).2 ⟨hb, hcv, fun d hd => ?_, ih hm (fun d hd => hn d (List.mem_cons_of_mem c hd))⟩
      rcases mem_place hd with rfl | hd
      · exact lt_of_le_of_ne (not_lt.1 hac) hc
      · exact hlt d hd

/-- A write inside memory keeps the canonical form. -/
theorem wf_write {m : Memory} {a : Nat} (v : Int) (h : Memory.wf m = true) (ha : a < 100) :
    Memory.wf (Memory.write m a v) = true := by
  unfold Memory.write
  split
  · exact wf_erase a h
  · next hv => exact wf_place (wf_erase a h) ha hv (fun c hc => (mem_erase hc).2)

/-- Two canonical memories that read the same everywhere are the same list. -/
theorem eq_of_read_eq {m m' : Memory} (h : Memory.wf m = true) (h' : Memory.wf m' = true)
    (hr : ∀ a, Memory.read m a = Memory.read m' a) : m = m' := by
  have below : ∀ {m : Memory} {a : Nat}, (∀ d ∈ m, a < d.1) → Memory.read m a = 0 := by
    intro m a hd
    induction m with
    | nil => rfl
    | cons c m ih =>
      rw [read_cons, if_neg (hd c List.mem_cons_self).ne', ih (fun d hm => hd d (List.mem_cons_of_mem c hm))]
  induction m generalizing m' with
  | nil =>
    cases m' with
    | nil => rfl
    | cons c m' =>
      have := hr c.1
      simp [read_cons] at this
      exact absurd this.symm ((wf_cons c m').1 h').2.1
  | cons c m ih =>
    cases m' with
    | nil =>
      have := hr c.1
      simp [read_cons] at this
      exact absurd this ((wf_cons c m).1 h).2.1
    | cons d m' =>
      obtain ⟨-, hcv, hcm, hm⟩ := (wf_cons c m).1 h
      obtain ⟨-, hdv, hdm, hm'⟩ := (wf_cons d m').1 h'
      have hk : c.1 = d.1 := by
        rcases lt_trichotomy c.1 d.1 with hlt | he | hlt
        · have e := hr c.1
          rw [read_cons, if_pos rfl, read_cons, if_neg hlt.ne', below (fun x hx => hlt.trans (hdm x hx))] at e
          exact absurd e hcv
        · exact he
        · have e := hr d.1
          rw [read_cons, if_neg hlt.ne', read_cons, if_pos rfl, below (fun x hx => hlt.trans (hcm x hx))] at e
          exact absurd e.symm hdv
      have hv : c.2 = d.2 := by
        have e := hr c.1
        rwa [read_cons, if_pos rfl, read_cons, if_pos hk.symm] at e
      have hrest : m = m' := ih hm hm' (fun a => by
        have e := hr a
        rw [read_cons, read_cons] at e
        by_cases ha : c.1 = a
        · rw [below (fun x hx => ha ▸ hcm x hx), below (fun x hx => (hk.symm.trans ha) ▸ hdm x hx)]
        · rwa [if_neg ha, if_neg (fun x => ha (hk.trans x))] at e)
      rw [hrest, Prod.ext hk hv]

/-- The listed words are the 100 reads in address order. -/
theorem words_get {m : Memory} {a : Nat} (h : a < 100) :
    (Memory.words m)[a]? = some (Memory.read m a) := by
  simp [Memory.words, h]

@[simp] theorem words_length (m : Memory) : (Memory.words m).length = 100 := by simp [Memory.words]

end Sys2Proof.Machine
end

