-- ==== Sys2Proof/Laws/State.lean ====
section
/-! SUPPORT. What each named update of the state does to each field: one equation per field per update, for simp, so
that no later proof unfolds a record update. -/

namespace Sys2Proof.Machine

/-! ### setAcc -/

@[simp] theorem setAcc_acc (v : Int) (s : State) : (setAcc v s).acc = v := rfl
@[simp] theorem setAcc_ic (v : Int) (s : State) : (setAcc v s).ic = s.ic := rfl
@[simp] theorem setAcc_ir (v : Int) (s : State) : (setAcc v s).ir = s.ir := rfl
@[simp] theorem setAcc_opc (v : Int) (s : State) : (setAcc v s).opc = s.opc := rfl
@[simp] theorem setAcc_opr (v : Int) (s : State) : (setAcc v s).opr = s.opr := rfl
@[simp] theorem setAcc_mem (v : Int) (s : State) : (setAcc v s).mem = s.mem := rfl
@[simp] theorem setAcc_inputs (v : Int) (s : State) : (setAcc v s).inputs = s.inputs := rfl
@[simp] theorem setAcc_incur (v : Int) (s : State) : (setAcc v s).incur = s.incur := rfl
@[simp] theorem setAcc_status (v : Int) (s : State) : (setAcc v s).status = s.status := rfl
@[simp] theorem setAcc_faultKind (v : Int) (s : State) : (setAcc v s).faultKind = s.faultKind := rfl
@[simp] theorem setAcc_loadCause (v : Int) (s : State) : (setAcc v s).loadCause = s.loadCause := rfl
@[simp] theorem setAcc_faultLine (v : Int) (s : State) : (setAcc v s).faultLine = s.faultLine := rfl
@[simp] theorem setAcc_loadAddr (v : Int) (s : State) : (setAcc v s).loadAddr = s.loadAddr := rfl
@[simp] theorem setAcc_loadIndex (v : Int) (s : State) : (setAcc v s).loadIndex = s.loadIndex := rfl
@[simp] theorem setAcc_host (v : Int) (s : State) : (setAcc v s).host = s.host := rfl

/-! ### setIc -/

@[simp] theorem setIc_acc (a : Int) (s : State) : (setIc a s).acc = s.acc := rfl
@[simp] theorem setIc_ic (a : Int) (s : State) : (setIc a s).ic = a := rfl
@[simp] theorem setIc_ir (a : Int) (s : State) : (setIc a s).ir = s.ir := rfl
@[simp] theorem setIc_opc (a : Int) (s : State) : (setIc a s).opc = s.opc := rfl
@[simp] theorem setIc_opr (a : Int) (s : State) : (setIc a s).opr = s.opr := rfl
@[simp] theorem setIc_mem (a : Int) (s : State) : (setIc a s).mem = s.mem := rfl
@[simp] theorem setIc_inputs (a : Int) (s : State) : (setIc a s).inputs = s.inputs := rfl
@[simp] theorem setIc_incur (a : Int) (s : State) : (setIc a s).incur = s.incur := rfl
@[simp] theorem setIc_status (a : Int) (s : State) : (setIc a s).status = s.status := rfl
@[simp] theorem setIc_faultKind (a : Int) (s : State) : (setIc a s).faultKind = s.faultKind := rfl
@[simp] theorem setIc_loadCause (a : Int) (s : State) : (setIc a s).loadCause = s.loadCause := rfl
@[simp] theorem setIc_faultLine (a : Int) (s : State) : (setIc a s).faultLine = s.faultLine := rfl
@[simp] theorem setIc_loadAddr (a : Int) (s : State) : (setIc a s).loadAddr = s.loadAddr := rfl
@[simp] theorem setIc_loadIndex (a : Int) (s : State) : (setIc a s).loadIndex = s.loadIndex := rfl
@[simp] theorem setIc_host (a : Int) (s : State) : (setIc a s).host = s.host := rfl

/-! ### latch -/

@[simp] theorem latch_acc (w : Int) (s : State) : (latch w s).acc = s.acc := rfl
@[simp] theorem latch_ic (w : Int) (s : State) : (latch w s).ic = s.ic := rfl
@[simp] theorem latch_ir (w : Int) (s : State) : (latch w s).ir = w := rfl
@[simp] theorem latch_opc (w : Int) (s : State) : (latch w s).opc = opcodeOf w := rfl
@[simp] theorem latch_opr (w : Int) (s : State) : (latch w s).opr = operandOf w := rfl
@[simp] theorem latch_mem (w : Int) (s : State) : (latch w s).mem = s.mem := rfl
@[simp] theorem latch_inputs (w : Int) (s : State) : (latch w s).inputs = s.inputs := rfl
@[simp] theorem latch_incur (w : Int) (s : State) : (latch w s).incur = s.incur := rfl
@[simp] theorem latch_status (w : Int) (s : State) : (latch w s).status = s.status := rfl
@[simp] theorem latch_faultKind (w : Int) (s : State) : (latch w s).faultKind = s.faultKind := rfl
@[simp] theorem latch_loadCause (w : Int) (s : State) : (latch w s).loadCause = s.loadCause := rfl
@[simp] theorem latch_faultLine (w : Int) (s : State) : (latch w s).faultLine = s.faultLine := rfl
@[simp] theorem latch_loadAddr (w : Int) (s : State) : (latch w s).loadAddr = s.loadAddr := rfl
@[simp] theorem latch_loadIndex (w : Int) (s : State) : (latch w s).loadIndex = s.loadIndex := rfl
@[simp] theorem latch_host (w : Int) (s : State) : (latch w s).host = s.host := rfl

/-! ### setWord -/

@[simp] theorem setWord_acc (a : Nat) (v : Int) (s : State) : (setWord a v s).acc = s.acc := rfl
@[simp] theorem setWord_ic (a : Nat) (v : Int) (s : State) : (setWord a v s).ic = s.ic := rfl
@[simp] theorem setWord_ir (a : Nat) (v : Int) (s : State) : (setWord a v s).ir = s.ir := rfl
@[simp] theorem setWord_opc (a : Nat) (v : Int) (s : State) : (setWord a v s).opc = s.opc := rfl
@[simp] theorem setWord_opr (a : Nat) (v : Int) (s : State) : (setWord a v s).opr = s.opr := rfl
@[simp] theorem setWord_mem (a : Nat) (v : Int) (s : State) : (setWord a v s).mem = Memory.write s.mem a v := rfl
@[simp] theorem setWord_inputs (a : Nat) (v : Int) (s : State) : (setWord a v s).inputs = s.inputs := rfl
@[simp] theorem setWord_incur (a : Nat) (v : Int) (s : State) : (setWord a v s).incur = s.incur := rfl
@[simp] theorem setWord_status (a : Nat) (v : Int) (s : State) : (setWord a v s).status = s.status := rfl
@[simp] theorem setWord_faultKind (a : Nat) (v : Int) (s : State) : (setWord a v s).faultKind = s.faultKind := rfl
@[simp] theorem setWord_loadCause (a : Nat) (v : Int) (s : State) : (setWord a v s).loadCause = s.loadCause := rfl
@[simp] theorem setWord_faultLine (a : Nat) (v : Int) (s : State) : (setWord a v s).faultLine = s.faultLine := rfl
@[simp] theorem setWord_loadAddr (a : Nat) (v : Int) (s : State) : (setWord a v s).loadAddr = s.loadAddr := rfl
@[simp] theorem setWord_loadIndex (a : Nat) (v : Int) (s : State) : (setWord a v s).loadIndex = s.loadIndex := rfl
@[simp] theorem setWord_host (a : Nat) (v : Int) (s : State) : (setWord a v s).host = s.host := rfl

/-! ### inConsume -/

@[simp] theorem inConsume_acc (s : State) : (inConsume s).acc = s.acc := rfl
@[simp] theorem inConsume_ic (s : State) : (inConsume s).ic = s.ic := rfl
@[simp] theorem inConsume_ir (s : State) : (inConsume s).ir = s.ir := rfl
@[simp] theorem inConsume_opc (s : State) : (inConsume s).opc = s.opc := rfl
@[simp] theorem inConsume_opr (s : State) : (inConsume s).opr = s.opr := rfl
@[simp] theorem inConsume_mem (s : State) : (inConsume s).mem = s.mem := rfl
@[simp] theorem inConsume_inputs (s : State) : (inConsume s).inputs = s.inputs := rfl
@[simp] theorem inConsume_incur (s : State) : (inConsume s).incur = s.incur + 1 := rfl
@[simp] theorem inConsume_status (s : State) : (inConsume s).status = s.status := rfl
@[simp] theorem inConsume_faultKind (s : State) : (inConsume s).faultKind = s.faultKind := rfl
@[simp] theorem inConsume_loadCause (s : State) : (inConsume s).loadCause = s.loadCause := rfl
@[simp] theorem inConsume_faultLine (s : State) : (inConsume s).faultLine = s.faultLine := rfl
@[simp] theorem inConsume_loadAddr (s : State) : (inConsume s).loadAddr = s.loadAddr := rfl
@[simp] theorem inConsume_loadIndex (s : State) : (inConsume s).loadIndex = s.loadIndex := rfl
@[simp] theorem inConsume_host (s : State) : (inConsume s).host = s.host := rfl

/-! ### setHalted -/

@[simp] theorem setHalted_acc (s : State) : (setHalted s).acc = s.acc := rfl
@[simp] theorem setHalted_ic (s : State) : (setHalted s).ic = s.ic := rfl
@[simp] theorem setHalted_ir (s : State) : (setHalted s).ir = s.ir := rfl
@[simp] theorem setHalted_opc (s : State) : (setHalted s).opc = s.opc := rfl
@[simp] theorem setHalted_opr (s : State) : (setHalted s).opr = s.opr := rfl
@[simp] theorem setHalted_mem (s : State) : (setHalted s).mem = s.mem := rfl
@[simp] theorem setHalted_inputs (s : State) : (setHalted s).inputs = s.inputs := rfl
@[simp] theorem setHalted_incur (s : State) : (setHalted s).incur = s.incur := rfl
@[simp] theorem setHalted_status (s : State) : (setHalted s).status = .halted := rfl
@[simp] theorem setHalted_faultKind (s : State) : (setHalted s).faultKind = s.faultKind := rfl
@[simp] theorem setHalted_loadCause (s : State) : (setHalted s).loadCause = s.loadCause := rfl
@[simp] theorem setHalted_faultLine (s : State) : (setHalted s).faultLine = s.faultLine := rfl
@[simp] theorem setHalted_loadAddr (s : State) : (setHalted s).loadAddr = s.loadAddr := rfl
@[simp] theorem setHalted_loadIndex (s : State) : (setHalted s).loadIndex = s.loadIndex := rfl
@[simp] theorem setHalted_host (s : State) : (setHalted s).host = s.host := rfl

/-! ### setHost -/

@[simp] theorem setHost_acc (h : List HostInput) (s : State) : (setHost h s).acc = s.acc := rfl
@[simp] theorem setHost_ic (h : List HostInput) (s : State) : (setHost h s).ic = s.ic := rfl
@[simp] theorem setHost_ir (h : List HostInput) (s : State) : (setHost h s).ir = s.ir := rfl
@[simp] theorem setHost_opc (h : List HostInput) (s : State) : (setHost h s).opc = s.opc := rfl
@[simp] theorem setHost_opr (h : List HostInput) (s : State) : (setHost h s).opr = s.opr := rfl
@[simp] theorem setHost_mem (h : List HostInput) (s : State) : (setHost h s).mem = s.mem := rfl
@[simp] theorem setHost_inputs (h : List HostInput) (s : State) : (setHost h s).inputs = s.inputs := rfl
@[simp] theorem setHost_incur (h : List HostInput) (s : State) : (setHost h s).incur = s.incur := rfl
@[simp] theorem setHost_status (h : List HostInput) (s : State) : (setHost h s).status = s.status := rfl
@[simp] theorem setHost_faultKind (h : List HostInput) (s : State) : (setHost h s).faultKind = s.faultKind := rfl
@[simp] theorem setHost_loadCause (h : List HostInput) (s : State) : (setHost h s).loadCause = s.loadCause := rfl
@[simp] theorem setHost_faultLine (h : List HostInput) (s : State) : (setHost h s).faultLine = s.faultLine := rfl
@[simp] theorem setHost_loadAddr (h : List HostInput) (s : State) : (setHost h s).loadAddr = s.loadAddr := rfl
@[simp] theorem setHost_loadIndex (h : List HostInput) (s : State) : (setHost h s).loadIndex = s.loadIndex := rfl
@[simp] theorem setHost_host (h : List HostInput) (s : State) : (setHost h s).host = h := rfl

/-! ### enterFault -/

@[simp] theorem enterFault_acc (e : RunError) (s : State) : (enterFault e s).acc = s.acc := rfl
@[simp] theorem enterFault_ic (e : RunError) (s : State) : (enterFault e s).ic = s.ic := rfl
@[simp] theorem enterFault_ir (e : RunError) (s : State) : (enterFault e s).ir = s.ir := rfl
@[simp] theorem enterFault_opc (e : RunError) (s : State) : (enterFault e s).opc = s.opc := rfl
@[simp] theorem enterFault_opr (e : RunError) (s : State) : (enterFault e s).opr = s.opr := rfl
@[simp] theorem enterFault_mem (e : RunError) (s : State) : (enterFault e s).mem = s.mem := rfl
@[simp] theorem enterFault_inputs (e : RunError) (s : State) : (enterFault e s).inputs = s.inputs := rfl
@[simp] theorem enterFault_incur (e : RunError) (s : State) : (enterFault e s).incur = s.incur := rfl
@[simp] theorem enterFault_status (e : RunError) (s : State) : (enterFault e s).status = .faulted := rfl
@[simp] theorem enterFault_faultKind (e : RunError) (s : State) : (enterFault e s).faultKind = e.kind := rfl
@[simp] theorem enterFault_loadCause (e : RunError) (s : State) : (enterFault e s).loadCause = s.loadCause := rfl
@[simp] theorem enterFault_faultLine (e : RunError) (s : State) : (enterFault e s).faultLine = s.faultLine := rfl
@[simp] theorem enterFault_loadAddr (e : RunError) (s : State) : (enterFault e s).loadAddr = s.loadAddr := rfl
@[simp] theorem enterFault_loadIndex (e : RunError) (s : State) : (enterFault e s).loadIndex = s.loadIndex := rfl
@[simp] theorem enterFault_host (e : RunError) (s : State) : (enterFault e s).host = s.host := rfl

/-! ### loadStart -/

@[simp] theorem loadStart_acc (s : State) : (loadStart s).acc = s.acc := rfl
@[simp] theorem loadStart_ic (s : State) : (loadStart s).ic = s.ic := rfl
@[simp] theorem loadStart_ir (s : State) : (loadStart s).ir = s.ir := rfl
@[simp] theorem loadStart_opc (s : State) : (loadStart s).opc = s.opc := rfl
@[simp] theorem loadStart_opr (s : State) : (loadStart s).opr = s.opr := rfl
@[simp] theorem loadStart_mem (s : State) : (loadStart s).mem = [] := rfl
@[simp] theorem loadStart_inputs (s : State) : (loadStart s).inputs = s.inputs := rfl
@[simp] theorem loadStart_incur (s : State) : (loadStart s).incur = s.incur := rfl
@[simp] theorem loadStart_status (s : State) : (loadStart s).status = .loading := rfl
@[simp] theorem loadStart_faultKind (s : State) : (loadStart s).faultKind = .noFault := rfl
@[simp] theorem loadStart_loadCause (s : State) : (loadStart s).loadCause = .noCause := rfl
@[simp] theorem loadStart_faultLine (s : State) : (loadStart s).faultLine = 0 := rfl
@[simp] theorem loadStart_loadAddr (s : State) : (loadStart s).loadAddr = 0 := rfl
@[simp] theorem loadStart_loadIndex (s : State) : (loadStart s).loadIndex = 0 := rfl
@[simp] theorem loadStart_host (s : State) : (loadStart s).host = s.host := rfl

/-! ### loadFinish -/

@[simp] theorem loadFinish_acc (s : State) : (loadFinish s).acc = s.acc := rfl
@[simp] theorem loadFinish_ic (s : State) : (loadFinish s).ic = s.ic := rfl
@[simp] theorem loadFinish_ir (s : State) : (loadFinish s).ir = s.ir := rfl
@[simp] theorem loadFinish_opc (s : State) : (loadFinish s).opc = s.opc := rfl
@[simp] theorem loadFinish_opr (s : State) : (loadFinish s).opr = s.opr := rfl
@[simp] theorem loadFinish_mem (s : State) : (loadFinish s).mem = s.mem := rfl
@[simp] theorem loadFinish_inputs (s : State) : (loadFinish s).inputs = s.inputs := rfl
@[simp] theorem loadFinish_incur (s : State) : (loadFinish s).incur = s.incur := rfl
@[simp] theorem loadFinish_status (s : State) : (loadFinish s).status = .ready := rfl
@[simp] theorem loadFinish_faultKind (s : State) : (loadFinish s).faultKind = s.faultKind := rfl
@[simp] theorem loadFinish_loadCause (s : State) : (loadFinish s).loadCause = s.loadCause := rfl
@[simp] theorem loadFinish_faultLine (s : State) : (loadFinish s).faultLine = s.faultLine := rfl
@[simp] theorem loadFinish_loadAddr (s : State) : (loadFinish s).loadAddr = 0 := rfl
@[simp] theorem loadFinish_loadIndex (s : State) : (loadFinish s).loadIndex = 0 := rfl
@[simp] theorem loadFinish_host (s : State) : (loadFinish s).host = s.host := rfl

/-! ### loadFail -/

@[simp] theorem loadFail_acc (c : LoadCause) (s : State) : (loadFail c s).acc = s.acc := rfl
@[simp] theorem loadFail_ic (c : LoadCause) (s : State) : (loadFail c s).ic = s.ic := rfl
@[simp] theorem loadFail_ir (c : LoadCause) (s : State) : (loadFail c s).ir = s.ir := rfl
@[simp] theorem loadFail_opc (c : LoadCause) (s : State) : (loadFail c s).opc = s.opc := rfl
@[simp] theorem loadFail_opr (c : LoadCause) (s : State) : (loadFail c s).opr = s.opr := rfl
@[simp] theorem loadFail_mem (c : LoadCause) (s : State) : (loadFail c s).mem = s.mem := rfl
@[simp] theorem loadFail_inputs (c : LoadCause) (s : State) : (loadFail c s).inputs = s.inputs := rfl
@[simp] theorem loadFail_incur (c : LoadCause) (s : State) : (loadFail c s).incur = s.incur := rfl
@[simp] theorem loadFail_status (c : LoadCause) (s : State) : (loadFail c s).status = .loadFailed := rfl
@[simp] theorem loadFail_faultKind (c : LoadCause) (s : State) : (loadFail c s).faultKind = .loadError := rfl
@[simp] theorem loadFail_loadCause (c : LoadCause) (s : State) : (loadFail c s).loadCause = c := rfl
@[simp] theorem loadFail_faultLine (c : LoadCause) (s : State) : (loadFail c s).faultLine = s.loadIndex := rfl
@[simp] theorem loadFail_loadAddr (c : LoadCause) (s : State) : (loadFail c s).loadAddr = 0 := rfl
@[simp] theorem loadFail_loadIndex (c : LoadCause) (s : State) : (loadFail c s).loadIndex = 0 := rfl
@[simp] theorem loadFail_host (c : LoadCause) (s : State) : (loadFail c s).host = s.host := rfl

/-! ### loadAccept -/

@[simp] theorem loadAccept_acc (v : Int) (s : State) : (loadAccept v s).acc = s.acc := rfl
@[simp] theorem loadAccept_ic (v : Int) (s : State) : (loadAccept v s).ic = s.ic := rfl
@[simp] theorem loadAccept_ir (v : Int) (s : State) : (loadAccept v s).ir = s.ir := rfl
@[simp] theorem loadAccept_opc (v : Int) (s : State) : (loadAccept v s).opc = s.opc := rfl
@[simp] theorem loadAccept_opr (v : Int) (s : State) : (loadAccept v s).opr = s.opr := rfl
@[simp] theorem loadAccept_mem (v : Int) (s : State) : (loadAccept v s).mem = Memory.write s.mem s.loadAddr v := rfl
@[simp] theorem loadAccept_inputs (v : Int) (s : State) : (loadAccept v s).inputs = s.inputs := rfl
@[simp] theorem loadAccept_incur (v : Int) (s : State) : (loadAccept v s).incur = s.incur := rfl
@[simp] theorem loadAccept_status (v : Int) (s : State) : (loadAccept v s).status = s.status := rfl
@[simp] theorem loadAccept_faultKind (v : Int) (s : State) : (loadAccept v s).faultKind = s.faultKind := rfl
@[simp] theorem loadAccept_loadCause (v : Int) (s : State) : (loadAccept v s).loadCause = s.loadCause := rfl
@[simp] theorem loadAccept_faultLine (v : Int) (s : State) : (loadAccept v s).faultLine = s.faultLine := rfl
@[simp] theorem loadAccept_loadAddr (v : Int) (s : State) : (loadAccept v s).loadAddr = s.loadAddr + 1 := rfl
@[simp] theorem loadAccept_loadIndex (v : Int) (s : State) : (loadAccept v s).loadIndex = s.loadIndex + 1 := rfl
@[simp] theorem loadAccept_host (v : Int) (s : State) : (loadAccept v s).host = s.host := rfl

/-! ### runStart -/

@[simp] theorem runStart_acc (xs : List Int) (s : State) : (runStart xs s).acc = 0 := rfl
@[simp] theorem runStart_ic (xs : List Int) (s : State) : (runStart xs s).ic = 0 := rfl
@[simp] theorem runStart_ir (xs : List Int) (s : State) : (runStart xs s).ir = 0 := rfl
@[simp] theorem runStart_opc (xs : List Int) (s : State) : (runStart xs s).opc = 0 := rfl
@[simp] theorem runStart_opr (xs : List Int) (s : State) : (runStart xs s).opr = 0 := rfl
@[simp] theorem runStart_mem (xs : List Int) (s : State) : (runStart xs s).mem = s.mem := rfl
@[simp] theorem runStart_inputs (xs : List Int) (s : State) : (runStart xs s).inputs = xs := rfl
@[simp] theorem runStart_incur (xs : List Int) (s : State) : (runStart xs s).incur = 0 := rfl
@[simp] theorem runStart_status (xs : List Int) (s : State) : (runStart xs s).status = .running := rfl
@[simp] theorem runStart_faultKind (xs : List Int) (s : State) : (runStart xs s).faultKind = .noFault := rfl
@[simp] theorem runStart_loadCause (xs : List Int) (s : State) : (runStart xs s).loadCause = .noCause := rfl
@[simp] theorem runStart_faultLine (xs : List Int) (s : State) : (runStart xs s).faultLine = 0 := rfl
@[simp] theorem runStart_loadAddr (xs : List Int) (s : State) : (runStart xs s).loadAddr = s.loadAddr := rfl
@[simp] theorem runStart_loadIndex (xs : List Int) (s : State) : (runStart xs s).loadIndex = s.loadIndex := rfl
@[simp] theorem runStart_host (xs : List Int) (s : State) : (runStart xs s).host = s.host := rfl

/-! ### State.reset -/

@[simp] theorem reset_acc : State.reset.acc = 0 := rfl
@[simp] theorem reset_ic : State.reset.ic = 0 := rfl
@[simp] theorem reset_ir : State.reset.ir = 0 := rfl
@[simp] theorem reset_opc : State.reset.opc = 0 := rfl
@[simp] theorem reset_opr : State.reset.opr = 0 := rfl
@[simp] theorem reset_mem : State.reset.mem = [] := rfl
@[simp] theorem reset_inputs : State.reset.inputs = [] := rfl
@[simp] theorem reset_incur : State.reset.incur = 0 := rfl
@[simp] theorem reset_status : State.reset.status = .idle := rfl
@[simp] theorem reset_faultKind : State.reset.faultKind = .noFault := rfl
@[simp] theorem reset_loadCause : State.reset.loadCause = .noCause := rfl
@[simp] theorem reset_faultLine : State.reset.faultLine = 0 := rfl
@[simp] theorem reset_loadAddr : State.reset.loadAddr = 0 := rfl
@[simp] theorem reset_loadIndex : State.reset.loadIndex = 0 := rfl
@[simp] theorem reset_host : State.reset.host = [] := rfl

end Sys2Proof.Machine
end

