-- ==== Sys2Proof/Laws/Ops.lean ====
section
/-! SUPPORT. One lemma per shared operation that says what it answers, for later proofs to cite instead of unfolding. -/

namespace Sys2Proof.Machine

@[simp] theorem raise_eq (e : RunError) (s : State) : raise e s = .next (enterFault e s) := rfl

@[simp] theorem advance_eq (s : State) : advance s = .next (setIc (s.ic + 1) s) := rfl

@[simp] theorem branchTo_eq (a : Int) (s : State) : branchTo a s = .next (setIc a s) := rfl

@[simp] theorem endRun_eq (s : State) : endRun s = .next (setHalted s) := rfl

@[simp] theorem effectiveAddress_eq (n : Int) : effectiveAddress n = n := rfl

/-- No run-time error is recorded as LoadError or as no error (60_exceptions.md R91). -/
theorem kind_ne (e : RunError) : e.kind ≠ .noFault ∧ e.kind ≠ .loadError := by
  cases e <;> simp [RunError.kind]

/-- The same, as a simp fact for each half. -/
@[simp] theorem kind_ne_noFault (e : RunError) : e.kind ≠ .noFault := (kind_ne e).1

@[simp] theorem kind_ne_loadError (e : RunError) : e.kind ≠ .loadError := (kind_ne e).2

theorem memRead_inside {a : Int} (h : addressInMemory a) (s : State) :
    memRead a s = .ok (Memory.read s.mem a.toNat) := if_pos h

theorem memRead_outside {a : Int} (h : ¬ addressInMemory a) (s : State) :
    memRead a s = .error (.addressBounds a) := if_neg h

theorem withOperand_inside {n : Int} (h : addressInMemory n) (s : State) (go : Int → Result) :
    withOperand n s go = go (Memory.read s.mem n.toNat) := by
  rw [withOperand, effectiveAddress_eq, memRead_inside h]

theorem withOperand_outside {n : Int} (h : ¬ addressInMemory n) (s : State) (go : Int → Result) :
    withOperand n s go = .next (enterFault (.addressBounds n) s) := by
  rw [withOperand, effectiveAddress_eq, memRead_outside h]
  rfl

theorem withStored_inside {n : Int} (h : addressInMemory n) (v : Int) (s : State) (go : State → Result) :
    withStored n v s go = go (setWord n.toNat v s) := by
  rw [withStored, effectiveAddress_eq, memWrite, if_pos h]

theorem withStored_outside {n : Int} (h : ¬ addressInMemory n) (v : Int) (s : State) (go : State → Result) :
    withStored n v s go = .next (enterFault (.addressBounds n) s) := by
  rw [withStored, effectiveAddress_eq, memWrite, if_neg h]
  rfl

theorem checkAndCommit_valid {r : Int} (h : validWord r) (s : State) :
    checkAndCommit r s = .next (setIc (s.ic + 1) (setAcc r s)) := if_pos h

theorem checkAndCommit_overflow {r : Int} (h : ¬ validWord r) (s : State) :
    checkAndCommit r s = .next (enterFault (.wordOverflow r) s) := if_neg h

theorem branchIf_eq (taken : Bool) (n : Int) (s : State) :
    branchIf taken n s = .next (setIc (if taken then n else s.ic + 1) s) := by
  cases taken <;> rfl

end Sys2Proof.Machine
end

