-- ==== Sys2Proof/Laws/Exec.lean ====
section
/-! SUPPORT. Everything an instruction can do to the state, said once (40_cycle.md R66, 60_exceptions.md R93). -/

namespace Sys2Proof.Machine

/-- The instructions that commit a result to ACC (10_state.md R15). -/
abbrev commits (i : Instr) (n : Int) : Prop := i = .load n ∨ i = .add n ∨ i = .sub n ∨ i = .div n ∨ i = .mul n

/-- The instructions that access memory at their operand (20_memory.md R42), and so the ones that can raise. -/
abbrev accesses (i : Instr) (n : Int) : Prop := i = .read n ∨ i = .store n ∨ commits i n

/-- The seven ways an instruction `i` leaves the state `s`. -/
inductive Effect (i : Instr) (s : State) : State → Prop where
  | raised (n : Int) (e : RunError) (hi : accesses i n) : Effect i s (enterFault e s)
  | advanced (n : Int) (hi : i = .write n ∨ i = .brneg n ∨ i = .brzero n) : Effect i s (setIc (s.ic + 1) s)
  | committed (n v : Int) (hi : commits i n) (hv : validWord v) : Effect i s (setIc (s.ic + 1) (setAcc v s))
  | stored (n : Int) (hi : i = .store n) (hn : addressInMemory n) :
      Effect i s (setIc (s.ic + 1) (setWord n.toNat s.acc s))
  | consumed (n v : Int) (hi : i = .read n) (hn : addressInMemory n) (ha : inValue s = some v) (hv : validWord v) :
      Effect i s (setIc (s.ic + 1) (inConsume (setWord n.toNat v s)))
  | branched (n : Int) (hi : i = .br n ∨ i = .brneg n ∨ i = .brzero n) : Effect i s (setIc n s)
  | halted (hi : endsRun i = true) : Effect i s (setHalted s)

theorem checkAndCommit_effect {i : Instr} {n : Int} (hi : commits i n) (r : Int) (s : State) :
    ∃ t, checkAndCommit r s = .next t ∧ Effect i s t := by
  by_cases h : validWord r
  · exact ⟨_, checkAndCommit_valid h s, .committed n r hi h⟩
  · exact ⟨_, checkAndCommit_overflow h s, .raised n _ (.inr (.inr hi))⟩

theorem withOperand_effect {i : Instr} {n : Int} (hi : commits i n) (s : State) (go : Int → Result)
    (h : ∀ v, ∃ t, go v = .next t ∧ Effect i s t) : ∃ t, withOperand n s go = .next t ∧ Effect i s t := by
  by_cases hn : addressInMemory n
  · rw [withOperand_inside hn]
    exact h _
  · exact ⟨_, withOperand_outside hn s go, .raised n _ (.inr (.inr hi))⟩

theorem withStored_effect {i : Instr} {n : Int} (hi : accesses i n) (v : Int) (s : State) (go : State → Result)
    (h : addressInMemory n → ∃ t, go (setWord n.toNat v s) = .next t ∧ Effect i s t) :
    ∃ t, withStored n v s go = .next t ∧ Effect i s t := by
  by_cases hn : addressInMemory n
  · rw [withStored_inside hn]
    exact h hn
  · exact ⟨_, withStored_outside hn v s go, .raised n _ hi⟩

/-- Every instruction answers a next state, reached in one of the seven ways. -/
theorem exec_effect (i : Instr) (s : State) : ∃ t, exec i s = .next t ∧ Effect i s t := by
  have commit : ∀ (n : Int) (f : Int → Int), commits i n →
      ∃ t, withOperand n s (fun b => checkAndCommit (f b) s) = .next t ∧ Effect i s t :=
    fun n f hi => withOperand_effect hi s _ (fun b => checkAndCommit_effect hi (f b) s)
  cases i with
  | read n =>
    rw [exec, execRead]
    cases hv : inValue s with
    | none => exact ⟨_, rfl, .raised n _ (by simp [accesses, commits])⟩
    | some v =>
      by_cases h : validWord v
      · simp only [if_pos h]
        exact withStored_effect (by simp [accesses]) v s _ (fun hn => ⟨_, rfl, .consumed n v rfl hn hv h⟩)
      · simp only [if_neg h]
        exact ⟨_, rfl, .raised n _ (by simp [accesses, commits])⟩
  | write n => exact ⟨_, rfl, .advanced n (by simp)⟩
  | load n => exact commit n id (by simp [commits])
  | store n => exact withStored_effect (by simp [accesses]) _ s _ (fun hn => ⟨_, rfl, .stored n rfl hn⟩)
  | add n => exact commit n (s.acc + ·) (by simp [commits])
  | sub n => exact commit n (s.acc - ·) (by simp [commits])
  | div n =>
    refine withOperand_effect (by simp [commits]) s _ (fun v => ?_)
    split
    · exact ⟨_, rfl, .raised n _ (by simp [accesses, commits])⟩
    · exact checkAndCommit_effect (n := n) (by simp [commits]) _ s
  | mul n => exact commit n (s.acc * ·) (by simp [commits])
  | br n => exact ⟨_, rfl, .branched n (by simp)⟩
  | brneg n =>
    rw [exec, execBrneg, branchIf_eq]
    split
    · exact ⟨_, rfl, .branched n (by simp)⟩
    · exact ⟨_, rfl, .advanced n (by simp)⟩
  | brzero n =>
    rw [exec, execBrzero, branchIf_eq]
    split
    · exact ⟨_, rfl, .branched n (by simp)⟩
    · exact ⟨_, rfl, .advanced n (by simp)⟩
  | halt n => exact ⟨_, rfl, .halted rfl⟩
  | unmapped w => exact ⟨_, rfl, .halted rfl⟩

/-- The inversion form: a next state of `exec` is reached in one of the seven ways. -/
theorem effect_of_exec {i : Instr} {s t : State} (h : exec i s = .next t) : Effect i s t := by
  obtain ⟨u, hu, he⟩ := exec_effect i s
  rw [hu] at h
  cases h
  exact he

end Sys2Proof.Machine
end

