-- ==== Sys2Proof/Laws/Lexer.lean ====
section
/-! SUPPORT. What splitting a source text can do, one lemma per end of a line (20_memory.md R30.1). -/

namespace Sys2Proof.Machine

@[simp] theorem dropReturn_nil : dropReturn [] = [] := rfl

@[simp] theorem dropReturn_return (cur : List Char) : dropReturn ('\r' :: cur) = cur := rfl

theorem dropReturn_other {c : Char} (h : c ≠ '\r') (cur : List Char) : dropReturn (c :: cur) = c :: cur := if_neg h

/-- Text without a line feed only grows the line in progress. -/
theorem linesFrom_append (l : List Char) (cur rest : List Char) (h : '\n' ∉ l) :
    linesFrom cur (l ++ rest) = linesFrom (l.reverse ++ cur) rest := by
  induction l generalizing cur with
  | nil => rfl
  | cons c l ih =>
    obtain ⟨hc, hl⟩ := not_or.1 (mt List.mem_cons.2 h)
    rw [List.cons_append, linesFrom, if_neg (Ne.symm hc), ih _ hl]
    simp

/-- A line that does not end in CR, ended by LF alone. -/
theorem sourceLines_lineFeed {l : List Char} (rest : List Char) (h : '\n' ∉ l) (hr : l.getLast? ≠ some '\r') :
    sourceLines (l ++ '\n' :: rest) = l :: sourceLines rest := by
  rw [sourceLines, linesFrom_append l [] _ h, List.append_nil, linesFrom, if_pos rfl, sourceLines]
  congr 1
  rcases hl : l.reverse with _ | ⟨c, t⟩
  · simpa using congrArg List.reverse hl.symm
  · have hc : c ≠ '\r' := fun e => hr (by rw [← List.head?_reverse, hl, e]; rfl)
    rw [dropReturn_other hc, ← hl, List.reverse_reverse]

/-- A line ended by CRLF, whatever it ends in itself. -/
theorem sourceLines_returnLineFeed {l : List Char} (rest : List Char) (h : '\n' ∉ l) :
    sourceLines (l ++ '\r' :: '\n' :: rest) = l :: sourceLines rest := by
  rw [sourceLines, linesFrom_append l [] _ h, linesFrom, if_neg (by decide), linesFrom, if_pos rfl]
  simp [sourceLines]

/-- The last line, without a terminator. -/
theorem sourceLines_last {l : List Char} (h : '\n' ∉ l) : sourceLines l = if l = [] then [] else [l] := by
  have e := linesFrom_append l [] [] h
  rw [List.append_nil, List.append_nil] at e
  rw [sourceLines, e, linesFrom]
  simp

end Sys2Proof.Machine
end

