-- ==== Sys2Proof/Laws/PerInstr.lean ====
section
/-! SUPPORT. Statements about every instruction as syntax, one lemma per constructor of Instr. -/

namespace Sys2Proof.Laws.EncodedIsWord

/-- The encoder's answer for a well-formed instruction is a word (30_encoding.md R52, R62). -/
def Statement (i : Instr) : Prop := wellFormed i = true → validWord (encode i)

/-- Two digits behind an opcode of two digits make a word. -/
theorem validWord_wordFor {c n : Int} (hc : 0 ≤ c ∧ c ≤ 99) (hn : operandInRange n) : validWord (wordFor c n) := by
  unfold wordFor
  omega

theorem read (n : Int) : Statement (.read n) := fun h =>
  validWord_wordFor (by decide) (of_decide_eq_true h)

theorem write (n : Int) : Statement (.write n) := fun h =>
  validWord_wordFor (by decide) (of_decide_eq_true h)

theorem load (n : Int) : Statement (.load n) := fun h =>
  validWord_wordFor (by decide) (of_decide_eq_true h)

theorem store (n : Int) : Statement (.store n) := fun h =>
  validWord_wordFor (by decide) (of_decide_eq_true h)

theorem add (n : Int) : Statement (.add n) := fun h =>
  validWord_wordFor (by decide) (of_decide_eq_true h)

theorem sub (n : Int) : Statement (.sub n) := fun h =>
  validWord_wordFor (by decide) (of_decide_eq_true h)

theorem div (n : Int) : Statement (.div n) := fun h =>
  validWord_wordFor (by decide) (of_decide_eq_true h)

theorem mul (n : Int) : Statement (.mul n) := fun h =>
  validWord_wordFor (by decide) (of_decide_eq_true h)

theorem br (n : Int) : Statement (.br n) := fun h =>
  validWord_wordFor (by decide) (of_decide_eq_true h)

theorem brneg (n : Int) : Statement (.brneg n) := fun h =>
  validWord_wordFor (by decide) (of_decide_eq_true h)

theorem brzero (n : Int) : Statement (.brzero n) := fun h =>
  validWord_wordFor (by decide) (of_decide_eq_true h)

theorem halt (n : Int) : Statement (.halt n) := fun h =>
  validWord_wordFor (by decide) (of_decide_eq_true h)

theorem unmapped (w : Int) : Statement (.unmapped w) := fun h => by
  have hw : unmappedWord w := of_decide_eq_true h
  show validWord w
  omega

end Sys2Proof.Laws.EncodedIsWord
end

