-- ==== Sys2Proof/Laws/Step.lean ====
section
/-! SUPPORT. What the fetch, the core's move, the host's move and a step can answer, said once each. -/

namespace Sys2Proof.Machine

/-! ### Fetch and decode (40_cycle.md R64, R65) -/

theorem fetchThen_outside {s : State} (h : ¬ addressInMemory s.ic) (run : Instr → State → Result) :
    fetchThen s run = .next (enterFault (.addressBounds s.ic) s) := by
  rw [fetchThen, memRead_outside h]
  rfl

theorem fetchThen_inside {s : State} {i : Instr} (h : addressInMemory s.ic)
    (hd : decode (Memory.read s.mem s.ic.toNat) = .ok i) (run : Instr → State → Result) :
    fetchThen s run = run i (latch (Memory.read s.mem s.ic.toNat) s) := by
  simp only [fetchThen, memRead_inside h, hd]

theorem fetchThen_notAWord {s : State} (h : addressInMemory s.ic)
    (hw : ¬ validWord (Memory.read s.mem s.ic.toNat)) (run : Instr → State → Result) :
    fetchThen s run = .fault (.notAWord (Memory.read s.mem s.ic.toNat)) := by
  simp only [fetchThen, memRead_inside h, decode_of_not_valid hw]

/-! ### Who moves -/

@[simp] theorem setHost_self (s : State) : setHost s.host s = s := rfl

theorem coreMove_running {s : State} (h : s.status = .running) : coreMove s = fetchThen s exec := by
  rw [coreMove, h]

theorem coreMove_not_running {s : State} (h : s.status ≠ .running) : coreMove s = .next s := by
  unfold coreMove
  split <;> first | rfl | exact absurd ‹_› h

theorem step_quiet {s : State} (h : hostQuiet s) : step s = coreMove (setHost (hostRest s) s) := by
  cases hh : s.host with
  | nil =>
    have e : setHost (hostRest s) s = s := by
      rw [hostRest, hh, List.tail_nil, ← hh, setHost_self]
    rw [e]
    simp only [step, nextMove, hh]
  | cons x rest =>
    have hx : x = .quiet := by simpa [hostQuiet, hh] using h
    simp only [step, nextMove, hh, hx, hostRest, List.tail_cons]

theorem step_command {s : State} {c : Command} {rest : List HostInput} (h : s.host = .command c :: rest) :
    step s = .next (hostMove c (setHost rest s)) := by
  simp only [step, nextMove, h]

/-- The host's next input is a command or nothing. -/
theorem hostQuiet_or_command (s : State) : hostQuiet s ∨ ∃ c rest, s.host = .command c :: rest := by
  cases h : s.host with
  | nil => exact .inl (.inl h)
  | cons x rest =>
    cases x with
    | quiet => exact .inl (.inr (by rw [h]; rfl))
    | command c => exact .inr ⟨c, rest, rfl⟩

/-- The inversion of the core's own step while RUNNING: the fetch raised, or an instruction was decoded and had its
effect on the latched state. -/
theorem quiet_step_cases {s t : State} (hq : hostQuiet s) (hr : s.status = .running) (h : step s = .next t) :
    (¬ addressInMemory s.ic ∧ t = enterFault (.addressBounds s.ic) (setHost (hostRest s) s)) ∨
      ∃ i, addressInMemory s.ic ∧ decode (Memory.read s.mem s.ic.toNat) = .ok i ∧
        Effect i (latch (Memory.read s.mem s.ic.toNat) (setHost (hostRest s) s)) t := by
  rw [step_quiet hq, coreMove_running (s := setHost (hostRest s) s) hr] at h
  by_cases hi : addressInMemory s.ic
  · by_cases hw : validWord (Memory.read s.mem s.ic.toNat)
    · rw [fetchThen_inside (s := setHost (hostRest s) s) hi (decode_of_valid hw)] at h
      exact .inr ⟨_, hi, decode_of_valid hw, effect_of_exec h⟩
    · rw [fetchThen_notAWord (s := setHost (hostRest s) s) hi hw] at h
      cases h
  · rw [fetchThen_outside (s := setHost (hostRest s) s) hi] at h
    cases h
    exact .inl ⟨hi, rfl⟩

/-- The inversion of a step that is not a cycle: nothing but the host's list changes, or the host's command moves. -/
theorem other_step_cases {s t : State} (hn : ¬ (hostQuiet s ∧ s.status = .running)) (h : step s = .next t) :
    t = setHost (hostRest s) s ∨ ∃ c rest, s.host = .command c :: rest ∧ t = hostMove c (setHost rest s) := by
  rcases hostQuiet_or_command s with hq | ⟨c, rest, hc⟩
  · rw [step_quiet hq, coreMove_not_running (s := setHost (hostRest s) s) (fun hr => hn ⟨hq, hr⟩)] at h
    cases h
    exact .inl rfl
  · rw [step_command hc] at h
    cases h
    exact .inr ⟨c, rest, hc, rfl⟩

/-! ### Runs of several steps -/

/-- A run of a machine whose first step answers a next state. -/
theorem run_of_next {M : Host.Core} {s t : M.State} (h : M.step s = .next t) (k : Nat) :
    Host.Core.run M (k + 1) s = Host.Core.run M k t := by
  simp only [Host.Core.run, h]

/-- The same for this machine. -/
theorem run_core_of_next {s t : State} (h : step s = .next t) (k : Nat) :
    Host.Core.run core (k + 1) s = Host.Core.run core k t :=
  run_of_next (M := core) h k

/-! ### The loader's token (20_memory.md R33) -/

theorem loadToken_cases (t : Token) (s : State) :
    (t = .malformed ∧ loadToken t s = loadFail .notAnInteger s) ∨
      (t = .int (-99999) ∧ loadToken t s = loadFinish s) ∨
      (∃ v, t = .int v ∧ v ≠ -99999 ∧ ¬ validWord v ∧ loadToken t s = loadFail .outOfRange s) ∨
      (∃ v, t = .int v ∧ validWord v ∧ s.loadAddr = 100 ∧ loadToken t s = loadFail .tooLong s) ∨
      (∃ v, t = .int v ∧ validWord v ∧ s.loadAddr ≠ 100 ∧ loadToken t s = loadAccept v s) := by
  cases t with
  | malformed => exact .inl ⟨rfl, rfl⟩
  | int v =>
    unfold loadToken
    by_cases h1 : v = -99999
    · exact .inr (.inl ⟨by rw [h1], if_pos h1⟩)
    · by_cases h2 : validWord v
      · by_cases h3 : s.loadAddr = 100
        · exact .inr (.inr (.inr (.inl ⟨v, rfl, h2, h3, by simp only [if_neg h1, if_neg (not_not.2 h2), if_pos h3]⟩)))
        · exact .inr (.inr (.inr (.inr ⟨v, rfl, h2, h3, by simp only [if_neg h1, if_neg (not_not.2 h2), if_neg h3]⟩)))
      · exact .inr (.inr (.inl ⟨v, rfl, h1, h2, by simp only [if_neg h1, if_pos h2]⟩))

/-- A word is written at the next address, or is one too many (20_memory.md R33, R37). -/
theorem loadToken_word {v : Int} (hv : validWord v) (s : State) :
    loadToken (.int v) s = if s.loadAddr = 100 then loadFail .tooLong s else loadAccept v s := by
  have hs : v ≠ -99999 := by omega
  simp only [loadToken, if_neg hs, if_neg (not_not.2 hv)]

/-! ### The host's command (70_reset_and_hazards.md R107) -/

theorem hostMove_accepted {c : Command} {s : State} (h : accepted c s.status = true) :
    hostMove c s = commandEffect c s := if_pos h

theorem hostMove_not_accepted {c : Command} {s : State} (h : accepted c s.status = false) : hostMove c s = s := by
  rw [hostMove, h]
  rfl

end Sys2Proof.Machine
end

