-- ==== Sys2Proof/Tests/Slice0.lean ====
section
/-! SUPPORT. The model's own tests. Expected results are those of spec/95_test_vectors.md (the vector's id stands in the
docstring) or hand calculation from the rule named. After them, one witness per statement of
Certificates/Slice0/Obligations.lean that its hypotheses can be met, at the ends of their ranges. -/

namespace Sys2Proof.Tests

open Sys2Proof Sys2Proof.Machine

/-! ### Helpers -/

/-- A running machine with a quiet host; `cells` in rising address order. -/
def running (ic acc : Int) (cells : Memory) (inputs : List Int) : State :=
  { State.reset with ic := ic, acc := acc, mem := cells, inputs := inputs, status := .running }

/-- A machine in STATUS `st` whose host gives the commands `cs`. -/
def hosted (st : Status) (cs : List Command) : State :=
  { State.reset with status := st, host := cs.map .command }

/-- The next state, if there is one. -/
def nextOf (r : Result) : Option State :=
  match r with
  | .next t => some t
  | .fault _ => none
  | .refused _ => none

/-- The next state of a step. -/
def after (s : State) : Option State := nextOf (step s)

/-- ACC, IC, STATUS and FAULT_KIND after a step. -/
def alu (s : State) : Option (Int × Int × Status × FaultKind) :=
  (after s).map (fun t => (t.acc, t.ic, t.status, t.faultKind))

/-- The arithmetic vectors' setting: the word at IC = 10, its operand at 20 (section 2.5). -/
def aluAt (word acc operand : Int) : Option (Int × Int × Status × FaultKind) :=
  alu (running 10 acc (Memory.write [(10, word)] 20 operand) [])

/-! ### WellFormed refuses an ill-formed term, for each check -/

theorem smoke_read : wellFormed (.read 100) = false := by decide
theorem smoke_write : wellFormed (.write (-1)) = false := by decide
theorem smoke_load : wellFormed (.load 100) = false := by decide
theorem smoke_store : wellFormed (.store (-1)) = false := by decide
theorem smoke_add : wellFormed (.add 100) = false := by decide
theorem smoke_sub : wellFormed (.sub (-1)) = false := by decide
theorem smoke_div : wellFormed (.div 100) = false := by decide
theorem smoke_mul : wellFormed (.mul (-1)) = false := by decide
theorem smoke_br : wellFormed (.br 100) = false := by decide
theorem smoke_brneg : wellFormed (.brneg (-1)) = false := by decide
theorem smoke_brzero : wellFormed (.brzero 100) = false := by decide
theorem smoke_halt : wellFormed (.halt (-1)) = false := by decide
theorem smoke_unmapped_mapped_word : wellFormed (.unmapped 1000) = false := by decide
theorem smoke_unmapped_no_word : wellFormed (.unmapped 10000) = false := by decide

/-! ### Decoding: words written from the encodings (section 2.1) -/

theorem test_decode_read : decode 1007 = .ok (.read 7) := by decide
theorem test_decode_write : decode 1108 = .ok (.write 8) := by decide
theorem test_decode_load : decode 2007 = .ok (.load 7) := by decide
theorem test_decode_store : decode 2199 = .ok (.store 99) := by decide
theorem test_decode_add : decode 3008 = .ok (.add 8) := by decide
theorem test_decode_sub : decode 3150 = .ok (.sub 50) := by decide
theorem test_decode_div : decode 3201 = .ok (.div 1) := by decide
theorem test_decode_mul : decode 3399 = .ok (.mul 99) := by decide
theorem test_decode_br : decode 4000 = .ok (.br 0) := by decide
theorem test_decode_brneg : decode 4142 = .ok (.brneg 42) := by decide
theorem test_decode_brzero : decode 4210 = .ok (.brzero 10) := by decide
theorem test_decode_halt : decode 4399 = .ok (.halt 99) := by decide
theorem test_decode_unmapped : decode 3400 = .ok (.unmapped 3400) ∧ decode (-4300) = .ok (.unmapped (-4300)) := by
  decide
theorem test_decode_rejects : decode 10000 = .error .notAWord ∧ decode (-10000) = .error .notAWord := by decide

/-- The fields of negative words (30_encoding.md's table of examples). -/
theorem test_negative_fields : (opcodeOf (-1007), operandOf (-1007)) = (-10, -7) ∧
    (opcodeOf (-50), operandOf (-50)) = (0, -50) ∧ (opcodeOf (-4300), operandOf (-4300)) = (-43, 0) := by decide

/-- A word given as a number: 3016 as it is, 64529 as the 16-bit pattern of -1007, 20000 is no word (log entry 2). -/
theorem test_table_words : decodeTableWord 16 3016 = some (.add 16) ∧
    decodeTableWord 16 64529 = some (.unmapped (-1007)) ∧ decodeTableWord 16 20000 = none := by decide

/-! ### One step (sections 2.3 to 2.7) -/

/-- IO1. -/
theorem test_read : (after (running 0 0 [(0, 1007)] [5, 7])).map
    (fun t => (Memory.read t.mem 7, t.incur, t.ic)) = some (5, 1, 1) := by decide

/-- IO7: out of range writes nothing. -/
theorem test_read_overflow : (after (running 0 0 [(0, 1050)] [10000])).map
    (fun t => (Memory.read t.mem 50, t.incur, t.ic, t.faultKind)) = some (0, 0, 0, .wordOverflowError) := by decide

/-- W1. -/
theorem test_write : (after (running 2 7 [(2, 1108)] [])).map (fun t => (t.acc, t.ic, t.ir, t.opc, t.opr)) =
    some (7, 3, 1108, 11, 8) := by decide

/-- LS3: the word it was fetched from. -/
theorem test_load_own_word : alu (running 0 0 [(0, 2000)] []) = some (2000, 1, .running, .noFault) := by decide

/-- LS2. -/
theorem test_load_negative : alu (running 0 3 [(0, 2010), (10, -9999)] []) =
    some (-9999, 1, .running, .noFault) := by decide

/-- LS7: its own cell. -/
theorem test_store_own_cell : (after (running 8 (-1) [(8, 2108)] [])).map (fun t => (t.mem, t.ic, t.acc, t.ir)) =
    some ([(8, -1)], 9, -1, 2108) := by decide

/-- LS8: a stored 0 is not listed, so the memory is the canonical one. -/
theorem test_store_zero : (after (running 0 0 [(0, 2120), (20, 3000)] [])).map (fun t => t.mem) =
    some [(0, 2120)] := by decide

/-- A3 and A6. -/
theorem test_add : aluAt 3020 9999 1 = some (9999, 10, .faulted, .wordOverflowError) ∧
    aluAt 3020 (-5000) (-4999) = some (-9999, 11, .running, .noFault) := by decide

/-- S1 and S6. -/
theorem test_sub : aluAt 3120 5 10 = some (-5, 11, .running, .noFault) ∧
    aluAt 3120 (-1) 9999 = some (-1, 10, .faulted, .wordOverflowError) := by decide

/-- D3 and D4: truncation toward zero. -/
theorem test_div_truncates : aluAt 3220 (-7) 2 = some (-3, 11, .running, .noFault) ∧
    aluAt 3220 7 (-2) = some (-3, 11, .running, .noFault) := by decide

/-- D9. -/
theorem test_div_by_zero : aluAt 3220 5 0 = some (5, 10, .faulted, .divisionByZeroError) := by decide

/-- M4 and M9. -/
theorem test_mul : aluAt 3320 (-99) 101 = some (-9999, 11, .running, .noFault) ∧
    aluAt 3320 9999 9999 = some (9999, 10, .faulted, .wordOverflowError) := by decide

/-- B3. -/
theorem test_br : alu (running 98 0 [(98, 4099)] []) = some (0, 99, .running, .noFault) := by decide

/-- N1 and N2. -/
theorem test_brneg : alu (running 2 (-5) [(2, 4110)] []) = some (-5, 10, .running, .noFault) ∧
    alu (running 2 0 [(2, 4110)] []) = some (0, 3, .running, .noFault) := by decide

/-- Z1 and Z3. -/
theorem test_brzero : alu (running 4 0 [(4, 4209)] []) = some (0, 9, .running, .noFault) ∧
    alu (running 4 (-1) [(4, 4209)] []) = some (-1, 5, .running, .noFault) := by decide

/-- H2. -/
theorem test_halt : (after (running 5 0 [(5, 4399)] [])).map (fun t => (t.status, t.ic, t.ir, t.opc, t.opr)) =
    some (.halted, 5, 4399, 43, 99) := by decide

/-- U3. -/
theorem test_unmapped : (after (running 0 0 [(0, -1007)] [])).map (fun t => (t.status, t.opc, t.opr, t.faultKind)) =
    some (.halted, -10, -7, .noFault) := by decide

/-- The second cycle of C1: the guard leaves IR, OPC and OPR. -/
theorem test_counter_guard : (after (latch 2000 (running 100 7 [(0, 7)] []))).map
    (fun t => (t.faultKind, t.ic, t.ir, t.opc, t.opr, t.acc)) = some (.addressBoundsError, 100, 2000, 20, 0, 7) := by
  decide

/-- A placed word runs first, right after reset. -/
theorem test_placed_word : (after (State.reset.withFetchWord 16 4042)).map (fun t => (t.ic, t.ir, t.status)) =
    some (42, 4042, .running) := by decide

/-! ### The load port and source text (section 2.2) -/

/-- L13, L15 and L14: malformed lines. -/
theorem test_malformed_lines : lineToken ['1', '2', '.', '5'] = .malformed ∧ lineToken ['1', ' ', '2'] = .malformed ∧
    lineToken ['0', 'x', '1', '0'] = .malformed ∧ lineToken [] = .malformed ∧ lineToken ['+'] = .malformed := by decide

/-- L9: blanks, plus sign, leading zeros and CRLF; L16: no final line feed. -/
theorem test_source_tokens : sourceTokens [' ', ' ', '+', '0', '0', '4', '2', ' ', '\r', '\n'] = [.int 42] ∧
    sourceTokens ['1', '\n', '-', '2'] = [.int 1, .int (-2)] ∧ sourceTokens ['\n'] = [.malformed] := by decide

/-- L17: the sentinel is recognised by value and ends the load. -/
theorem test_sentinel_by_value : lineToken ['-', '0', '9', '9', '9', '9', '9'] = .int (-99999) ∧
    (after (hosted .loading [.token (.int (-99999))])).map (fun t => t.status) = some .ready := by decide

/-- L8: 99999 is out of range at its index. -/
theorem test_out_of_range_token :
    (after { hosted .loading [.token (.int 99999)] with loadAddr := 1, loadIndex := 1 }).map
      (fun t => (t.status, t.loadCause, t.faultLine)) = some (.loadFailed, .outOfRange, 1) := by decide

/-! ### Witnesses: the hypotheses of each statement can be met -/

/-- A running machine with an ADD at 0 and a LOAD at 99, for the statements about whole cycles. -/
def sample : State := running 0 5 [(0, 3020), (20, 10), (99, 2000)] [1, 20000]

theorem witness_operands : operandInRange 0 ∧ operandInRange 99 ∧ ¬ operandInRange (-1) ∧ ¬ operandInRange 100 := by
  decide

theorem witness_DecodeOfEncodeIsTheInstruction : wellFormed (.read 0) = true ∧ wellFormed (.halt 99) = true ∧
    wellFormed (.unmapped (-9999)) = true ∧ wellFormed (.unmapped 999) = true ∧ wellFormed (.unmapped 4400) = true := by
  decide

theorem witness_EveryWordIsExactlyOneInstruction : validWord 9999 ∧ decode (-9999) = .ok (.unmapped (-9999)) := by
  decide

theorem witness_FieldsAreDecimalDigitGroups : (0 ≤ (9 : Int) ∧ (9 : Int) ≤ 9) ∧ (0 ≤ (0 : Int) ∧ (0 : Int) ≤ 9) := by
  decide

theorem witness_DecodeSplitsEveryWord : (validWord 9999 ∧ (0 : Int) ≤ 9999) ∧ (validWord 0 ∧ (0 : Int) ≤ 0) ∧
    (validWord (-1) ∧ (-1 : Int) < 0) ∧ (validWord (-9999) ∧ (-9999 : Int) < 0) := by decide

theorem witness_UnmappedOpcodesActAsHalt : (-99 ≤ (9 : Int) ∧ (9 : Int) ≤ 99) ∧ decodeOp 9 = .unmapped ∧
    decodeOp 44 = .unmapped ∧ decodeOp 10 ≠ .unmapped ∧ decodeOp 43 ≠ .unmapped := by decide

theorem witness_MappedWordsHaveTwoDigitOperands : (validWord 1000 ∧ decodeOp (opcodeOf 1000) ≠ .unmapped) ∧
    (validWord 4399 ∧ decodeOp (opcodeOf 4399) ≠ .unmapped) ∧ (validWord 999 ∧ unmappedWord 999) := by decide

theorem witness_DivisionTruncatesTowardZero : (-2 : Int) ≠ 0 := by decide

theorem witness_StepRunsTheDecodedInstruction : hostQuiet sample ∧ sample.status = .running ∧
    (0 ≤ sample.ic ∧ sample.ic ≤ 99) ∧ decode (Memory.read sample.mem sample.ic.toNat) = .ok (.add 20) := by decide

theorem witness_StepRunsTheDecodedInstruction_last : hostQuiet (setIc 99 sample) ∧
    (0 ≤ (setIc 99 sample).ic ∧ (setIc 99 sample).ic ≤ 99) ∧
    decode (Memory.read (setIc 99 sample).mem (setIc 99 sample).ic.toNat) = .ok (.load 0) := by decide

theorem witness_CounterOutsideMemoryFaultsTheFetch : hostQuiet (setIc 100 sample) ∧
    (setIc 100 sample).status = .running ∧ 99 < (setIc 100 sample).ic ∧ (setIc (-1) sample).ic < 0 := by decide

theorem witness_CyclesOnlyWhileRunning : (hostQuiet State.reset ∧ State.reset.status ≠ .running) ∧
    (∃ t, step (hosted .ready [.runStart [5]]) = .next t ∧ (hosted .ready [.runStart [5]]).status ≠ .running ∧
      t.status = .running) ∧
    (hostQuiet sample ∧ sample.status = .running ∧ ∃ t, step sample = .next t) :=
  ⟨by decide, ⟨_, rfl, by decide, rfl⟩, by decide, rfl, _, rfl⟩

/-- A halting cycle, for the clause on HALTED. -/
theorem witness_OnlyHaltAndUnmappedEndARunHalted :
    hostQuiet (running 0 0 [(0, 4300)] []) ∧ (running 0 0 [(0, 4300)] []).status = .running ∧
      decode (Memory.read (running 0 0 [(0, 4300)] []).mem 0) = .ok (.halt 0) ∧
      (after (running 0 0 [(0, 4300)] [])).map (fun t => t.status) = some .halted := by decide

theorem witness_ReadStoresTheNextInput : operandInRange 99 ∧ sample.inputs[sample.incur]? = some 1 ∧ validWord 1 := by
  decide

theorem witness_ReadErrorsInOrder : ({ sample with incur := 2 } : State).inputs.length ≤ 2 ∧
    ({ sample with incur := 1 } : State).inputs[1]? = some 20000 ∧ ¬ validWord 20000 := by decide

theorem witness_LoadTakesTheMemoryWord : validWord (Memory.read sample.mem 20) ∧
    ¬ validWord (Memory.read (setWord 20 10000 sample).mem 20) := by decide

theorem witness_AddIsExactOrRaises : validWord ((setAcc 9989 sample).acc + Memory.read sample.mem 20) ∧
    ¬ validWord ((setAcc 9990 sample).acc + Memory.read sample.mem 20) := by decide

theorem witness_SubIsExactOrRaises : validWord ((setAcc (-9989) sample).acc - Memory.read sample.mem 20) ∧
    ¬ validWord ((setAcc (-9990) sample).acc - Memory.read sample.mem 20) := by decide

theorem witness_DivTruncatesOrRaises : Memory.read sample.mem 0 ≠ 0 ∧ Memory.read sample.mem 50 = 0 ∧
    validWord (setAcc (-9999) sample).acc ∧ ¬ validWord (tdiv (setAcc 100000 sample).acc (Memory.read sample.mem 20)) := by
  decide

theorem witness_MulIsExactOrRaises : validWord ((setAcc 999 sample).acc * Memory.read sample.mem 20) ∧
    ¬ validWord ((setAcc 1000 sample).acc * Memory.read sample.mem 20) := by decide

theorem witness_BranchTests : (setAcc (-1) sample).acc < 0 ∧ 0 ≤ (setAcc 0 sample).acc ∧ (setAcc 0 sample).acc = 0 ∧
    (setAcc 1 sample).acc ≠ 0 := by decide

theorem witness_HaltAndUnmappedOnlyEndTheRun : unmappedWord (-9999) ∧ unmappedWord 0 ∧ unmappedWord 9999 := by decide

theorem witness_LoadAndArithmeticFrame : (∃ t, exec (.add 20) sample = .next t ∧ t.status = .running) ∧
    ∃ t, exec (.div 50) sample = .next t ∧ t.status = .faulted := ⟨⟨_, rfl, rfl⟩, _, rfl, rfl⟩

theorem witness_StoringFrame : (∃ t, exec (.store 99) sample = .next t) ∧
    (∃ t, exec (.read 0) sample = .next t ∧ t.status = .running) ∧
    ∃ t, exec (.read 0) { sample with incur := 2 } = .next t ∧ t.status = .faulted :=
  ⟨⟨_, rfl⟩, ⟨_, rfl, rfl⟩, _, rfl, rfl⟩

theorem witness_NonstoringControlFrame : (∃ t, exec (.brneg 7) sample = .next t) ∧
    ∃ t, exec (.unmapped 0) sample = .next t := ⟨⟨_, rfl⟩, _, rfl⟩

theorem witness_FailingCycleChangesOnlyTheRecord :
    (∃ t, step (setAcc 9999 sample) = .next t ∧ t.status = .faulted) ∧
      ∃ t, step (setIc 100 sample) = .next t ∧ t.status = .faulted := ⟨⟨_, rfl, by decide⟩, _, rfl, by decide⟩

theorem witness_OnlyResetOrLoadLeavesATerminalStatus : (hosted .halted [.runStart []]).status = .halted ∧
    (hosted .halted [.runStart []]).host.head? ≠ some (.command .reset) ∧
    (hosted .halted [.runStart []]).host.head? ≠ some (.command .loadStart) ∧
    (hosted .faulted []).status = .faulted ∧ (hosted .loadFailed [.endOfSource]).status = .loadFailed := by decide

/-- A STORE at 1 to address 99, a READ at 2 and a loader's token, each changing one cell. -/
theorem witness_OnlyStoreReadAndTheHostWriteMemory :
    (after (running 1 5 [(1, 2199)] [])).map (fun t => Memory.read t.mem 99) = some 5 ∧
      (after (running 2 5 [(2, 1000)] [6])).map (fun t => Memory.read t.mem 0) = some 6 ∧
      (after (hosted .loading [.token (.int 8)])).map (fun t => Memory.read t.mem 0) = some 8 := by decide

theorem witness_WritersOfAccumulatorAndCursor : hostQuiet sample ∧
    (after sample).map (fun t => decide (t.acc ≠ sample.acc)) = some true ∧
    (after (running 2 5 [(2, 1000)] [6])).map (fun t => decide (t.incur ≠ 0)) = some true := by decide

theorem witness_CounterLeavesMemoryOnlyFromTheLastAddress :
    (after (setIc 99 sample)).map (fun t => (t.ic, t.status)) = some (100, .running) ∧
      (after sample).map (fun t => t.ic) = some 1 := by decide

theorem witness_StoreToTheNextAddressIsFetchedNext :
    let s := running 98 4300 [(98, 2199)] []
    s.host = [] ∧ s.status = .running ∧ (0 ≤ s.ic ∧ s.ic ≤ 98) ∧
      decode (Memory.read s.mem s.ic.toNat) = .ok (.store (s.ic + 1)) ∧ decode s.acc = .ok (.halt 0) := by decide

theorem witness_RunDependsOnlyOnMemoryAndInputs :
    let s₁ := hosted .ready [.runStart [5]]
    let s₂ := setAcc 7 (setIc 42 s₁)
    s₁.status = .ready ∧ s₂.status = .ready ∧ s₁.mem = s₂.mem ∧ memoryInvariant s₁ ∧ memoryInvariant s₂ ∧
      s₁.host = [.command (.runStart [5])] ∧ s₂.host = [.command (.runStart [5])] ∧ s₁ ≠ s₂ := by decide

theorem witness_BranchToItselfRunsForever :
    let s := running 99 5 [(99, 4099)] []
    s.host = [] ∧ s.status = .running ∧ (0 ≤ s.ic ∧ s.ic ≤ 99) ∧ Memory.read s.mem s.ic.toNat = 4000 + s.ic := by decide

/-- A state that meets the invariants, not the reset state, and takes a step. -/
theorem witness_invariants : machineInvariant sample ∧ ∃ t, step sample = .next t := ⟨by decide, _, rfl⟩

/-- A load in progress meets the invariants too. -/
theorem witness_invariants_loading : machineInvariant { hosted .loading [.token (.int 8)] with
    mem := [(0, 7)], loadAddr := 1, loadIndex := 1 } := by decide

theorem witness_ResetClearsEverything : (hosted .running [.reset]).host = .command .reset :: [] := by decide

theorem witness_LoadStartZeroesMemory : (hosted .halted [.loadStart]).host = .command .loadStart :: [] ∧
    (hosted .halted [.loadStart]).status ≠ .loading ∧ (hosted .halted [.loadStart]).status ≠ .running := by decide

theorem witness_BadTokensFailTheLoad : (hosted .loading [.token .malformed]).status = .loading ∧
    (hosted .loading [.token .malformed]).host = .command (.token .malformed) :: [] ∧
    (10000 : Int) ≠ -99999 ∧ ¬ validWord 10000 ∧ ¬ validWord (-10000) := by decide

theorem witness_LoaderTokenBySignal : (hosted .loading [.endOfSource]).host = .command .endOfSource :: [] ∧
    (hosted .loading [.unreadable]).host = .command .unreadable :: [] ∧ validWord (-9999) ∧
    ({ hosted .loading [] with loadAddr := 100 } : State).loadAddr = 100 ∧
    ({ hosted .loading [] with loadAddr := 99 } : State).loadAddr < 100 := by decide

theorem witness_WholeSourceLoads :
    (hosted .idle [.loadStart, .token (.int 9999), .endOfSource]).host =
        .command .loadStart :: ([9999].map (fun w => .command (.token (.int w))) ++ .command .endOfSource :: []) ∧
      (∀ w ∈ [(9999 : Int)], validWord w) ∧ [(9999 : Int)].length ≤ 100 ∧
      (List.replicate 100 (1 : Int)).length ≤ 100 := by decide

theorem witness_FirstBadTokenEndsTheLoad :
    (hosted .idle [.loadStart, .token (.int 5), .token .malformed]).host =
        .command .loadStart :: ([5].map (fun w => .command (.token (.int w))) ++ .command (.token .malformed) :: []) ∧
      (List.replicate 100 (1 : Int)).length = 100 ∧ (∀ w ∈ List.replicate 100 (1 : Int), validWord w) ∧ validWord 1 := by
  decide

theorem witness_RunStartBeginsAtAddressZero : (hosted .ready [.runStart [5]]).status = .ready ∧
    (hosted .ready [.runStart [5]]).host = .command (.runStart [5]) :: [] := by decide

theorem witness_CommandOutOfSequenceHasNoEffect :
    let s := hosted .idle [.runStart []]
    s.host = .command (.runStart []) :: [] ∧ Command.runStart [] ≠ .reset ∧ s.status ≠ .ready ∧
      (hosted .running [.loadStart]).status = .running ∧ (hosted .ready [.token .malformed]).status ≠ .loading := by decide

theorem witness_PlacedWordRunsNext : decodeTableWord 16 4399 = some (.halt 99) ∧
    (0 ≤ State.reset.ic ∧ State.reset.ic ≤ 99) := by decide

/-- A mixed text: a line ending in CR before CRLF, an empty line before LF, a last line that keeps its CR. -/
theorem witness_SourceTextSplitsAtLineFeeds :
    (∀ l ∈ [(['1', '\r'], true), ([], false), (['2'], true)],
      '\n' ∉ l.1 ∧ (l.2 = false → l.1.getLast? ≠ some '\r')) ∧ '\n' ∉ ['3', '\r'] ∧
    sourceLines ['1', '\r', '\r', '\n', '\n', '2', '\r', '\n', '3', '\r'] = [['1', '\r'], [], ['2'], ['3', '\r']] := by
  decide

theorem witness_ObservationShowsTheState : (State.reset.status ≠ .halted ∧ State.reset.status ≠ .faulted) ∧
    (hosted .halted []).status = .halted ∧ (hosted .faulted []).status = .faulted ∧
    (observe (hosted .loadFailed [])).status = 6 ∧ (observe sample).words[99]? = some 2000 := by decide

theorem witness_LineTokenIsTheDecimalLiteral : lineToken ['\t', '-', '0', '7', ' '] = .int (-7) := by decide

end Sys2Proof.Tests
end

section
/-! PROOFS. The division of 00_scope.md R11: its formula on absolute values, the bound on its remainder and the
remainder's sign. -/

namespace Sys2Proof

/-- The definition's quotient of natural numbers is R11's quotient of absolute values. -/
theorem tdiv_eq_sign_mul_abs_div_abs (a b : Int) : tdiv a b = a.sign * b.sign * (|a| / |b|) := by
  rw [tdiv, Int.natCast_ediv, Int.natCast_natAbs, Int.natCast_natAbs]

theorem abs_trem_lt_abs (a : Int) {b : Int} (hb : b ≠ 0) : |trem a b| < |b| := by
  have hmag : (trem a b).natAbs = a.natAbs % b.natAbs := by rw [trem_eq_library, Int.natAbs_tmod]
  have hlt : a.natAbs % b.natAbs < b.natAbs := Nat.mod_lt _ (Int.natAbs_pos.mpr hb)
  rw [Int.abs_eq_natAbs, Int.abs_eq_natAbs, hmag]
  exact Int.ofNat_lt.mpr hlt

/-- The remainder is 0 when `b` divides `a`, and has the sign of `a` otherwise. -/
theorem trem_eq_zero_or_sign_eq (a b : Int) : trem a b = 0 ∨ (trem a b).sign = a.sign := by
  rw [trem_eq_library]
  by_cases hdvd : b ∣ a
  · exact .inl (Int.tmod_eq_zero_of_dvd hdvd)
  · exact .inr (by rw [Int.sign_tmod, if_neg hdvd])

/-- Settles O10: the formula, the remainder's equation (which is the definition of `trem`), its bound and its sign. -/
theorem divisionTruncatesTowardZero : Obligations.DivisionTruncatesTowardZero := fun a b hb =>
  ⟨tdiv_eq_sign_mul_abs_div_abs a b, rfl, abs_trem_lt_abs a hb, trem_eq_zero_or_sign_eq a b⟩

end Sys2Proof
end

section
/-! PROOFS. Load start and the tokens that fail a load (20_memory.md R32, R35, R36). -/

namespace Sys2Proof.Machine

/-- A command that the STATUS accepts takes effect on the state whose host list has lost it (R107, log entry 3). -/
theorem step_accepted_command {s : State} {c : Command} {rest : List HostInput} (h : s.host = .command c :: rest)
    (ha : accepted c s.status = true) : step s = .next (commandEffect c (setHost rest s)) := by
  rw [step_command h, hostMove_accepted (s := setHost rest s) ha]

theorem accepted_loadStart {st : Status} : accepted .loadStart st = true ↔ st ≠ .loading ∧ st ≠ .running :=
  decide_eq_true_iff

theorem accepted_token {t : Token} {st : Status} : accepted (.token t) st = true ↔ st = .loading :=
  decide_eq_true_iff

theorem step_loadStart {s : State} {rest : List HostInput} (h : s.host = .command .loadStart :: rest)
    (hl : s.status ≠ .loading) (hr : s.status ≠ .running) : step s = .next (loadStart (setHost rest s)) :=
  step_accepted_command h (accepted_loadStart.mpr ⟨hl, hr⟩)

theorem step_token {s : State} {t : Token} {rest : List HostInput} (h : s.host = .command (.token t) :: rest)
    (hl : s.status = .loading) : step s = .next (loadToken t (setHost rest s)) :=
  step_accepted_command h (accepted_token.mpr hl)

theorem loadToken_malformed (s : State) : loadToken .malformed s = loadFail .notAnInteger s := rfl

theorem loadToken_outOfRange {v : Int} (hs : v ≠ -99999) (hv : ¬ validWord v) (s : State) :
    loadToken (.int v) s = loadFail .outOfRange s := by
  simp only [loadToken, if_neg hs, if_pos hv]

end Sys2Proof.Machine

namespace Sys2Proof

open Sys2Proof.Machine

/-- Settles O47: the step answers `loadStart`, whose memory lists no cell and so reads 0 everywhere. -/
theorem loadStartZeroesMemory : Obligations.LoadStartZeroesMemory := by
  intro s rest h hl hr
  refine ⟨loadStart (setHost rest s), step_loadStart h hl hr, fun a => ?_, ?_⟩
  · rw [loadStart_mem, read_empty]
  · simp

/-- Settles O48: the token is accepted while LOADING, and `loadToken` tests the sentinel before the range. -/
theorem badTokensFailTheLoad : Obligations.BadTokensFailTheLoad := by
  intro s rest hl
  constructor
  · intro h
    rw [step_token h hl, loadToken_malformed]
    rfl
  · intro v h hs hv
    rw [step_token h hl, loadToken_outOfRange hs hv]
    rfl

end Sys2Proof
end

section
/-! PROOFS. The fields of a word and the operation its opcode names (30_encoding.md R53, R58, R59). -/

namespace Sys2Proof

/-! ### The digit groups of a word -/

/-- Settles O6: the four digits are the word `100 * OPC + nn` of a two-digit opcode and a two-digit operand, whose
halves `split_wordFor` gives. -/
theorem fieldsAreDecimalDigitGroups : Obligations.FieldsAreDecimalDigitGroups := by
  intro d3 d2 d1 d0 h3 h2 h1 h0
  have hword : 1000 * d3 + 100 * d2 + 10 * d1 + d0 = wordFor (10 * d3 + d2) (10 * d1 + d0) := by
    unfold wordFor
    omega
  have hopc : 0 ≤ 10 * d3 + d2 := by omega
  have hopr : operandInRange (10 * d1 + d0) := by omega
  rw [hword]
  exact split_wordFor hopc hopr

/-! ### The operation of an opcode -/

/-- Settles O2: one case per row of the opcode table, and the opcodes outside it. -/
theorem operationIsATotalFunctionOfTheOpcode : Obligations.OperationIsATotalFunctionOfTheOpcode := by
  intro c
  rcases decodeOp_cases c with
      ⟨rfl, ho⟩ | ⟨rfl, ho⟩ | ⟨rfl, ho⟩ | ⟨rfl, ho⟩ | ⟨rfl, ho⟩ | ⟨rfl, ho⟩ | ⟨rfl, ho⟩ | ⟨rfl, ho⟩ | ⟨rfl, ho⟩ |
      ⟨rfl, ho⟩ | ⟨rfl, ho⟩ | ⟨rfl, ho⟩ | ⟨ho, hc⟩
  case inr.inr.inr.inr.inr.inr.inr.inr.inr.inr.inr.inr => simp only [ho, hc, if_false]
  all_goals exact ho

/-- An opcode is unmapped when it lies in one of the five gaps that the rows 10, 11, 20, 21, 30 to 33 and 40 to 43
leave between them. -/
theorem decodeOp_eq_unmapped_iff (c : Int) :
    decodeOp c = .unmapped ↔
      c ≤ 9 ∨ (12 ≤ c ∧ c ≤ 19) ∨ (22 ≤ c ∧ c ≤ 29) ∨ (34 ≤ c ∧ c ≤ 39) ∨ 44 ≤ c := by
  have hcases := decodeOp_cases c
  constructor
  · intro hu
    simp only [hu, reduceCtorEq, and_false, false_or, true_and] at hcases
    omega
  · intro hgap
    by_contra hm
    simp only [hm, false_and, or_false] at hcases
    omega

end Sys2Proof

namespace Sys2Proof.Machine

theorem exec_halt (n : Int) (s : State) : exec (.halt n) s = endRun s := rfl

theorem exec_unmapped (w : Int) (s : State) : exec (.unmapped w) s = endRun s := rfl

theorem exec_write (n : Int) (s : State) : exec (.write n) s = advance s := rfl

end Sys2Proof.Machine

namespace Sys2Proof

open Sys2Proof.Machine

theorem decode_zero : decode 0 = .ok (.unmapped 0) := by decide

/-- Settles O8: within [-99, 99] the gaps between the rows are R59's ranges; an unmapped instruction and HALT both end
the run, and WRITE and HALT do not read their operand. -/
theorem unmappedOpcodesActAsHalt : Obligations.UnmappedOpcodesActAsHalt := by
  refine ⟨fun c hc => ?_, fun w n s => ?_, fun m n s => ⟨?_, ?_⟩, decode_zero⟩
  · rw [decodeOp_eq_unmapped_iff]
    omega
  · rw [exec_unmapped, exec_halt]
  · rw [exec_write, exec_write]
  · rw [exec_halt, exec_halt]

end Sys2Proof
end

section
/-! PROOFS. What a run depends on (40_cycle.md R71): the state it starts in holds nothing of the machine before it but
memory. -/

namespace Sys2Proof.Machine

theorem accepted_runStart {xs : List Int} {st : Status} : accepted (.runStart xs) st = true ↔ st = .ready :=
  decide_eq_true_iff

theorem step_runStart {s : State} {xs : List Int} {rest : List HostInput}
    (h : s.host = .command (.runStart xs) :: rest) (hr : s.status = .ready) :
    step s = .next (runStart xs (setHost rest s)) :=
  step_accepted_command h (accepted_runStart.mpr hr)

/-- Run start sets every register, the cursor and the fault record (R106): only memory, the loader's counters and the
host's list come from the state before it. -/
theorem runStart_congr {s₁ s₂ : State} (xs : List Int) (hmem : s₁.mem = s₂.mem) (haddr : s₁.loadAddr = s₂.loadAddr)
    (hindex : s₁.loadIndex = s₂.loadIndex) (hhost : s₁.host = s₂.host) : runStart xs s₁ = runStart xs s₂ := by
  simp only [runStart, hmem, haddr, hindex, hhost]

/-- No load is in progress in a READY machine (log entry 4). -/
theorem loadCounters_of_ready {s : State} (hinv : memoryInvariant s) (hr : s.status = .ready) :
    s.loadAddr = 0 ∧ s.loadIndex = 0 := by
  obtain ⟨-, -, hidle⟩ := hinv
  exact hidle (by simp [hr])

/-- READY machines with equal memories start a run in the same state, whatever their registers hold. -/
theorem runStart_eq_of_ready {s₁ s₂ : State} (xs : List Int) (rest : List HostInput) (hr₁ : s₁.status = .ready)
    (hr₂ : s₂.status = .ready) (hmem : s₁.mem = s₂.mem) (hinv₁ : memoryInvariant s₁) (hinv₂ : memoryInvariant s₂) :
    runStart xs (setHost rest s₁) = runStart xs (setHost rest s₂) := by
  obtain ⟨haddr₁, hindex₁⟩ := loadCounters_of_ready hinv₁ hr₁
  obtain ⟨haddr₂, hindex₂⟩ := loadCounters_of_ready hinv₂ hr₂
  exact runStart_congr xs hmem (haddr₁.trans haddr₂.symm) (hindex₁.trans hindex₂.symm) rfl

end Sys2Proof.Machine

namespace Sys2Proof

open Sys2Proof.Machine

/-- Settles O38: the first step of both machines is the run start, which leads them into one state; the remaining `k`
steps are the same run. -/
theorem runDependsOnlyOnMemoryAndInputs : Obligations.RunDependsOnlyOnMemoryAndInputs := by
  intro s₁ s₂ xs k hr₁ hr₂ hmem hinv₁ hinv₂ hhost₁ hhost₂
  have hstart := runStart_eq_of_ready xs [] hr₁ hr₂ hmem hinv₁ hinv₂
  calc Host.Core.run core (k + 1) s₁
      = Host.Core.run core k (runStart xs (setHost [] s₁)) := run_core_of_next (step_runStart hhost₁ hr₁) k
    _ = Host.Core.run core k (runStart xs (setHost [] s₂)) := by rw [hstart]
    _ = Host.Core.run core (k + 1) s₂ := (run_core_of_next (step_runStart hhost₂ hr₂) k).symm

end Sys2Proof
end

section
/-! PROOFS. WRITE (41_io.md R75): the words of its opcode, and what it leaves. -/

namespace Sys2Proof

/-- The opcode's row of the table names the instruction of a word with a two-digit opcode and operand. -/
theorem decode_wordFor {c n : Int} (hc : 0 ≤ c ∧ c ≤ 99) (hn : operandInRange n) :
    decode (wordFor c n) = .ok (instrOf (decodeOp c) (wordFor c n)) := by
  obtain ⟨hopc, -⟩ := split_wordFor hc.1 hn
  rw [decode_of_valid (Laws.EncodedIsWord.validWord_wordFor hc hn), hopc]

theorem decode_wordFor_write {n : Int} (hn : operandInRange n) : decode (wordFor 11 n) = .ok (.write n) := by
  have hop : decodeOp 11 = .write := by decide
  obtain ⟨-, hopr⟩ := split_wordFor (c := 11) (by decide) hn
  rw [decode_wordFor (by decide) hn, hop, instrOf, hopr]

open Sys2Proof.Machine

/-- Settles O17: `1100 + n` is the word of opcode 11 and operand `n`, and WRITE's effect is `advance`. -/
theorem writeOnlyAdvances : Obligations.WriteOnlyAdvances := by
  intro n s hn
  have hword : 1100 + n = wordFor 11 n := rfl
  have hexec : exec (.write n) s = .next (setIc (s.ic + 1) s) := by rw [exec_write, advance_eq]
  exact ⟨hword ▸ decode_wordFor_write hn, hexec⟩

end Sys2Proof
end

section
/-! PROOFS. STORE (42_load_store.md R77): the words of its opcode, and the one memory word it changes. -/

namespace Sys2Proof.Machine

/-- R77, with a target that the address check of R41 accepts. -/
theorem exec_store {n : Int} (hn : addressInMemory n) (s : State) :
    exec (.store n) s = .next (setIc (s.ic + 1) (setWord n.toNat s.acc s)) := by
  have hexec : exec (.store n) s = withStored n s.acc s advance := rfl
  rw [hexec, withStored_inside hn, advance_eq, setWord_ic]

/-- The addresses other than `n` are the natural numbers other than `n.toNat`. -/
theorem read_write_toNat_other (m : Memory) {n : Int} (hn : 0 ≤ n) (v : Int) {a : Nat} (ha : (a : Int) ≠ n) :
    Memory.read (Memory.write m n.toNat v) a = Memory.read m a :=
  read_write_other m v (by omega)

end Sys2Proof.Machine

namespace Sys2Proof

theorem decode_wordFor_store {n : Int} (hn : operandInRange n) : decode (wordFor 21 n) = .ok (.store n) := by
  have hop : decodeOp 21 = .store := by decide
  obtain ⟨-, hopr⟩ := split_wordFor (c := 21) (by decide) hn
  rw [decode_wordFor (by decide) hn, hop, instrOf, hopr]

open Sys2Proof.Machine

/-- Settles O19: `2100 + n` is the word of opcode 21 and operand `n`, whose address check passes, and a written memory
reads as ACC at `n` and as before elsewhere. -/
theorem storeWritesTheAccumulator : Obligations.StoreWritesTheAccumulator := by
  intro n s hn
  have hword : 2100 + n = wordFor 21 n := rfl
  refine ⟨hword ▸ decode_wordFor_store hn, _, exec_store hn s, rfl, ?_, fun a ha => ?_⟩
  · exact read_write_same s.mem n.toNat s.acc
  · exact read_write_toNat_other s.mem hn.1 s.acc ha

end Sys2Proof
end

section
/-! PROOFS. ADD, SUB and MUL (43_arithmetic.md R80, R81, R83): the words of their opcodes, and the exact result that is
range-checked and committed (R79). -/

namespace Sys2Proof.Machine

theorem exec_add {n : Int} (hn : addressInMemory n) (s : State) :
    exec (.add n) s = checkAndCommit (s.acc + Memory.read s.mem n.toNat) s := withOperand_inside hn s _

theorem exec_sub {n : Int} (hn : addressInMemory n) (s : State) :
    exec (.sub n) s = checkAndCommit (s.acc - Memory.read s.mem n.toNat) s := withOperand_inside hn s _

theorem exec_mul {n : Int} (hn : addressInMemory n) (s : State) :
    exec (.mul n) s = checkAndCommit (s.acc * Memory.read s.mem n.toNat) s := withOperand_inside hn s _

/-- R79's two outcomes, for an instruction whose effect is to check and commit the result `r`. -/
theorem exact_or_raises_of_exec_eq {i : Instr} {s : State} {r : Int} (h : exec i s = checkAndCommit r s) :
    (validWord r → exec i s = .next { s with acc := r, ic := s.ic + 1 }) ∧
      (¬ validWord r → exec i s = raise (.wordOverflow r) s) :=
  ⟨fun hr => h.trans (checkAndCommit_valid hr s), fun hr => h.trans (checkAndCommit_overflow hr s)⟩

end Sys2Proof.Machine

namespace Sys2Proof

/-- A row of the table whose instruction `mk` takes the word's operand decodes to `mk n` at operand `n`. -/
theorem decode_wordFor_of_row {c n : Int} {op : Op} {mk : Int → Instr} (hc : 0 ≤ c ∧ c ≤ 99) (hop : decodeOp c = op)
    (hmk : ∀ w, instrOf op w = mk (operandOf w)) (hn : operandInRange n) : decode (wordFor c n) = .ok (mk n) := by
  obtain ⟨-, hopr⟩ := split_wordFor hc.1 hn
  rw [decode_wordFor hc hn, hop, hmk, hopr]

theorem decode_wordFor_add {n : Int} (hn : operandInRange n) : decode (wordFor 30 n) = .ok (.add n) :=
  decode_wordFor_of_row (op := .add) (by decide) (by decide) (fun _ => rfl) hn

theorem decode_wordFor_sub {n : Int} (hn : operandInRange n) : decode (wordFor 31 n) = .ok (.sub n) :=
  decode_wordFor_of_row (op := .sub) (by decide) (by decide) (fun _ => rfl) hn

theorem decode_wordFor_mul {n : Int} (hn : operandInRange n) : decode (wordFor 33 n) = .ok (.mul n) :=
  decode_wordFor_of_row (op := .mul) (by decide) (by decide) (fun _ => rfl) hn

open Sys2Proof.Machine

/-- Settles O20: `3000 + n` is the word of opcode 30 and operand `n`, and ADD checks and commits the exact sum. -/
theorem addIsExactOrRaises : Obligations.AddIsExactOrRaises := fun n s hn =>
  have hword : 3000 + n = wordFor 30 n := rfl
  ⟨hword ▸ decode_wordFor_add hn, exact_or_raises_of_exec_eq (exec_add hn s)⟩

/-- Settles O21: `3100 + n` is the word of opcode 31 and operand `n`, and SUB checks and commits ACC minus the memory
word. -/
theorem subIsExactOrRaises : Obligations.SubIsExactOrRaises := fun n s hn =>
  have hword : 3100 + n = wordFor 31 n := rfl
  ⟨hword ▸ decode_wordFor_sub hn, exact_or_raises_of_exec_eq (exec_sub hn s)⟩

/-- Settles O23: `3300 + n` is the word of opcode 33 and operand `n`, and MUL checks and commits the exact product. -/
theorem mulIsExactOrRaises : Obligations.MulIsExactOrRaises := fun n s hn =>
  have hword : 3300 + n = wordFor 33 n := rfl
  ⟨hword ▸ decode_wordFor_mul hn, exact_or_raises_of_exec_eq (exec_mul hn s)⟩

end Sys2Proof
end

section
/-! PROOFS. BR, BRNEG and BRZERO (44_control.md R84 to R86): the words of their opcodes, and where each sends IC. -/

namespace Sys2Proof.Machine

theorem exec_br (n : Int) (s : State) : exec (.br n) s = .next (setIc n s) := rfl

/-- A conditional branch on the decided test `p`: the operand when it holds, the next address when it does not. -/
theorem branchIf_decide (p : Prop) [Decidable p] (n : Int) (s : State) :
    branchIf (decide p) n s = .next (setIc (if p then n else s.ic + 1) s) := by
  simp only [branchIf_eq, decide_eq_true_eq]

theorem exec_brneg (n : Int) (s : State) :
    exec (.brneg n) s = .next (setIc (if s.acc < 0 then n else s.ic + 1) s) := branchIf_decide (s.acc < 0) n s

theorem exec_brzero (n : Int) (s : State) :
    exec (.brzero n) s = .next (setIc (if s.acc = 0 then n else s.ic + 1) s) := branchIf_decide (s.acc = 0) n s

/-- The two arms of an instruction that branches exactly when `p` holds. -/
theorem taken_or_next_of_exec_eq {i : Instr} {n : Int} {s : State} {p : Prop} [Decidable p]
    (h : exec i s = .next (setIc (if p then n else s.ic + 1) s)) :
    (p → exec i s = .next { s with ic := n }) ∧ (¬ p → exec i s = .next { s with ic := s.ic + 1 }) := by
  constructor
  · intro hp
    rw [h, if_pos hp, setIc]
  · intro hp
    rw [h, if_neg hp, setIc]

end Sys2Proof.Machine

namespace Sys2Proof

theorem decode_wordFor_br {n : Int} (hn : operandInRange n) : decode (wordFor 40 n) = .ok (.br n) :=
  decode_wordFor_of_row (op := .br) (by decide) (by decide) (fun _ => rfl) hn

theorem decode_wordFor_brneg {n : Int} (hn : operandInRange n) : decode (wordFor 41 n) = .ok (.brneg n) :=
  decode_wordFor_of_row (op := .brneg) (by decide) (by decide) (fun _ => rfl) hn

theorem decode_wordFor_brzero {n : Int} (hn : operandInRange n) : decode (wordFor 42 n) = .ok (.brzero n) :=
  decode_wordFor_of_row (op := .brzero) (by decide) (by decide) (fun _ => rfl) hn

open Sys2Proof.Machine

/-- Settles O24: `4000 + n` is the word of opcode 40 and operand `n`, and BR's effect is `setIc n`. -/
theorem branchGoesToItsOperand : Obligations.BranchGoesToItsOperand := fun n s hn =>
  have hword : 4000 + n = wordFor 40 n := rfl
  ⟨hword ▸ decode_wordFor_br hn, exec_br n s⟩

/-- Settles O25: `4100 + n` is the word of opcode 41 and operand `n`, and `0 ≤ ACC` is the negation of BRNEG's test. -/
theorem branchNegativeTestsTheSign : Obligations.BranchNegativeTestsTheSign := by
  intro n s hn
  have hword : 4100 + n = wordFor 41 n := rfl
  obtain ⟨htaken, hnext⟩ := taken_or_next_of_exec_eq (exec_brneg n s)
  exact ⟨hword ▸ decode_wordFor_brneg hn, htaken, fun hacc => hnext (not_lt.mpr hacc)⟩

/-- Settles O26: `4200 + n` is the word of opcode 42 and operand `n`, and BRZERO's test is on ACC itself. -/
theorem branchZeroTestsForZero : Obligations.BranchZeroTestsForZero := fun n s hn =>
  have hword : 4200 + n = wordFor 42 n := rfl
  ⟨hword ▸ decode_wordFor_brzero hn, taken_or_next_of_exec_eq (exec_brzero n s)⟩

end Sys2Proof
end

section
/-! PROOFS. Every instruction and its word (30_encoding.md sections 2 to 4, 44_control.md R88): the encoder and the
decoder are inverse to each other, and the words of R88 are those whose opcode is unmapped. -/

namespace Sys2Proof

/-! ### The fields of a word -/

/-- The word is put together again from its own fields. -/
theorem wordFor_fields (w : Int) : wordFor (opcodeOf w) (operandOf w) = w := by
  have hr := operandOf_eq w
  unfold wordFor
  omega

theorem fields_of_nonneg {w : Int} (hv : validWord w) (hw : 0 ≤ w) :
    (0 ≤ opcodeOf w ∧ opcodeOf w ≤ 99) ∧ operandInRange (operandOf w) := by
  have hopc := opcodeOf_of_nonneg hw
  have hopr := operandOf_eq w
  omega

/-- The spec's decision D5: a negative word has the fields of its magnitude, negated. -/
theorem fields_of_neg {w : Int} (hw : w < 0) : opcodeOf w = -opcodeOf (-w) ∧ operandOf w = -operandOf (-w) := by
  have hneg := opcodeOf_of_neg hw
  have hmag := opcodeOf_of_nonneg (w := -w) (by omega)
  have hopr := operandOf_eq w
  have hoprMag := operandOf_eq (-w)
  omega

/-! ### The unmapped words -/

/-- R88's list of ranges is the list of gaps in the opcode table, read on words. -/
theorem opcode_unmapped_iff {w : Int} (hv : validWord w) : decodeOp (opcodeOf w) = .unmapped ↔ unmappedWord w := by
  rw [decodeOp_eq_unmapped_iff]
  rcases Int.lt_or_le w 0 with hw | hw
  · have hopc := opcodeOf_of_neg hw
    omega
  · have hopc := opcodeOf_of_nonneg hw
    omega

theorem validWord_of_unmappedWord {w : Int} (hw : unmappedWord w) : validWord w := by omega

theorem decode_of_unmappedWord {w : Int} (hw : unmappedWord w) : decode w = .ok (.unmapped w) := by
  have hv := validWord_of_unmappedWord hw
  rw [decode_of_valid hv, (opcode_unmapped_iff hv).mpr hw, instrOf]

/-! ### Decode after encode -/

theorem decode_wordFor_read {n : Int} (hn : operandInRange n) : decode (wordFor 10 n) = .ok (.read n) :=
  decode_wordFor_of_row (op := .read) (by decide) (by decide) (fun _ => rfl) hn

theorem decode_wordFor_load {n : Int} (hn : operandInRange n) : decode (wordFor 20 n) = .ok (.load n) :=
  decode_wordFor_of_row (op := .load) (by decide) (by decide) (fun _ => rfl) hn

theorem decode_wordFor_div {n : Int} (hn : operandInRange n) : decode (wordFor 32 n) = .ok (.div n) :=
  decode_wordFor_of_row (op := .div) (by decide) (by decide) (fun _ => rfl) hn

theorem decode_wordFor_halt {n : Int} (hn : operandInRange n) : decode (wordFor 43 n) = .ok (.halt n) :=
  decode_wordFor_of_row (op := .halt) (by decide) (by decide) (fun _ => rfl) hn

/-- Settles O4: one case per row of the table, where the word's halves are the row's opcode and the operand, and the
unmapped words, each of which is its own encoding. -/
theorem decodeOfEncodeIsTheInstruction : Obligations.DecodeOfEncodeIsTheInstruction := by
  intro i h
  cases i with
  | read n => exact decode_wordFor_read (of_decide_eq_true h)
  | write n => exact decode_wordFor_write (of_decide_eq_true h)
  | load n => exact decode_wordFor_load (of_decide_eq_true h)
  | store n => exact decode_wordFor_store (of_decide_eq_true h)
  | add n => exact decode_wordFor_add (of_decide_eq_true h)
  | sub n => exact decode_wordFor_sub (of_decide_eq_true h)
  | div n => exact decode_wordFor_div (of_decide_eq_true h)
  | mul n => exact decode_wordFor_mul (of_decide_eq_true h)
  | br n => exact decode_wordFor_br (of_decide_eq_true h)
  | brneg n => exact decode_wordFor_brneg (of_decide_eq_true h)
  | brzero n => exact decode_wordFor_brzero (of_decide_eq_true h)
  | halt n => exact decode_wordFor_halt (of_decide_eq_true h)
  | unmapped w => exact decode_of_unmappedWord (of_decide_eq_true h)

/-- Settles O3: the word `100 * c + n` is the encoding of the row's instruction with operand `n`. -/
theorem opcodeTableDecodes : Obligations.OpcodeTableDecodes := fun _ hn =>
  ⟨decode_wordFor_read hn, decode_wordFor_write hn, decode_wordFor_load hn, decode_wordFor_store hn,
    decode_wordFor_add hn, decode_wordFor_sub hn, decode_wordFor_div hn, decode_wordFor_mul hn,
    decode_wordFor_br hn, decode_wordFor_brneg hn, decode_wordFor_brzero hn, decode_wordFor_halt hn⟩

/-- The decoder's answer for a word that is known as an encoding. -/
theorem decode_of_encode_eq {i : Instr} {w : Int} (hi : wellFormed i = true) (hw : encode i = w) :
    decode w = .ok i :=
  hw ▸ decodeOfEncodeIsTheInstruction i hi

/-- Settles O1: each vector's word is the encoding of its instruction, whose operand has two digits or whose word is
unmapped. -/
theorem knownWordsDecode : Obligations.KnownWordsDecode := by
  unfold Obligations.KnownWordsDecode
  and_intros
  all_goals exact decode_of_encode_eq (by decide) (by decide)

/-! ### Encode after decode -/

/-- An instruction read from `w` by a row of the table is encoded with that row's opcode and the operand of `w`. -/
theorem encode_instrOf (w : Int) : encode (instrOf (decodeOp (opcodeOf w)) w) = w := by
  have hfields := wordFor_fields w
  rcases decodeOp_cases (opcodeOf w) with
      ⟨hc, ho⟩ | ⟨hc, ho⟩ | ⟨hc, ho⟩ | ⟨hc, ho⟩ | ⟨hc, ho⟩ | ⟨hc, ho⟩ | ⟨hc, ho⟩ | ⟨hc, ho⟩ | ⟨hc, ho⟩ | ⟨hc, ho⟩ |
      ⟨hc, ho⟩ | ⟨hc, ho⟩ | ⟨ho, -⟩ <;> rw [ho]
  case inr.inr.inr.inr.inr.inr.inr.inr.inr.inr.inr.inr => rfl
  all_goals
    rw [hc] at hfields
    exact hfields

/-- Settles O5: the decoder tests exactly the word range, and encoding takes its answer back to the word. -/
theorem everyWordIsExactlyOneInstruction : Obligations.EveryWordIsExactlyOneInstruction := by
  refine ⟨fun w => ⟨fun hv => ⟨_, decode_of_valid hv⟩, ?_⟩, ?_⟩
  · rintro ⟨i, hd⟩
    exact (decode_ok_iff.mp hd).1
  · intro w i hd
    obtain ⟨-, rfl⟩ := decode_ok_iff.mp hd
    exact encode_instrOf w

/-! ### The decode of a word, by its fields -/

/-- Settles O7: the exact split, the ranges for words of at least 0, and D5 for the negative ones, which R88 lists. -/
theorem decodeSplitsEveryWord : Obligations.DecodeSplitsEveryWord := by
  intro w hv
  obtain ⟨-, -, hsplit⟩ := split_of_valid hv
  refine ⟨hsplit, fields_of_nonneg hv, fun hw => ?_⟩
  obtain ⟨hopc, hopr⟩ := fields_of_neg hw
  exact ⟨hopc, hopr, decode_of_unmappedWord (.inl ⟨hv.1, hw⟩)⟩

/-- Settles O9: a word outside R88's ranges lies in [1000, 4399], and its opcode is at least 10. -/
theorem mappedWordsHaveTwoDigitOperands : Obligations.MappedWordsHaveTwoDigitOperands := by
  intro w hv
  refine ⟨fun hm => ?_, opcode_unmapped_iff hv⟩
  have hnot : ¬ unmappedWord w := fun hu => hm ((opcode_unmapped_iff hv).mpr hu)
  have hrange : 1000 ≤ w ∧ w ≤ 4399 := by omega
  exact ⟨hrange, (fields_of_nonneg hv (by omega)).2⟩

end Sys2Proof
end

section
/-! PROOFS. Everything the host's command can do to the state, said once (70_reset_and_hazards.md R105 to R107,
20_memory.md R32 to R39), and what any step keeps: a property that the fetch, every instruction's effect and every
command's effect keep. -/

namespace Sys2Proof.Machine

/-- The seven ways a command `c` leaves the state `s`. -/
inductive CommandCase (c : Command) (s : State) : State → Prop where
  | ignored (ha : accepted c s.status = false) : CommandCase c s s
  | reset (hc : c = .reset) : CommandCase c s (hostReset s)
  | loadStarted (hc : c = .loadStart) : CommandCase c s (loadStart s)
  | finished (hl : s.status = .loading) : CommandCase c s (loadFinish s)
  | failed (cause : LoadCause) (hl : s.status = .loading) (hcause : cause ≠ .noCause) :
      CommandCase c s (loadFail cause s)
  | wordLoaded (v : Int) (hc : c = .token (.int v)) (hv : validWord v) (hl : s.status = .loading)
      (hk : s.loadAddr ≠ 100) : CommandCase c s (loadAccept v s)
  | runStarted (xs : List Int) (hc : c = .runStart xs) (hr : s.status = .ready) : CommandCase c s (runStart xs s)

theorem accepted_endOfSource {st : Status} : accepted .endOfSource st = true ↔ st = .loading := decide_eq_true_iff

theorem accepted_unreadable {st : Status} : accepted .unreadable st = true ↔ st = .loading := decide_eq_true_iff

theorem loadToken_case (t : Token) {s : State} (hl : s.status = .loading) :
    CommandCase (.token t) s (loadToken t s) := by
  rcases loadToken_cases t s with ⟨-, h⟩ | ⟨-, h⟩ | ⟨v, -, -, -, h⟩ | ⟨v, -, -, -, h⟩ | ⟨v, rfl, hv, hk, h⟩ <;> rw [h]
  · exact .failed _ hl (by decide)
  · exact .finished hl
  · exact .failed _ hl (by decide)
  · exact .failed _ hl (by decide)
  · exact .wordLoaded v rfl hv hl hk

/-- Every command leaves the state in one of the seven ways. -/
theorem hostMove_case (c : Command) (s : State) : CommandCase c s (hostMove c s) := by
  cases ha : accepted c s.status with
  | false =>
    rw [hostMove_not_accepted ha]
    exact .ignored ha
  | true =>
    rw [hostMove_accepted ha]
    cases c with
    | reset => exact .reset rfl
    | loadStart => exact .loadStarted rfl
    | token t => exact loadToken_case t (accepted_token.mp ha)
    | endOfSource => exact .finished (accepted_endOfSource.mp ha)
    | unreadable => exact .failed _ (accepted_unreadable.mp ha) (by decide)
    | runStart xs => exact .runStarted xs rfl (accepted_runStart.mp ha)

/-- A property of the state that every step keeps, one field per part of a step: taking the host's entry off the list,
the fetch (its error, or the latch of the decoded word), the instruction's effect, the command. -/
structure StepKeeps (P : State → Prop) : Prop where
  takeHost : ∀ (rest : List HostInput) (s : State), P s → P (setHost rest s)
  fetchFault : ∀ s : State, P s → s.status = .running → P (enterFault (.addressBounds s.ic) s)
  fetch : ∀ s : State, P s → addressInMemory s.ic → validWord (Memory.read s.mem s.ic.toNat) →
    P (latch (Memory.read s.mem s.ic.toNat) s)
  execute : ∀ (i : Instr) (s t : State), P s → s.status = .running → addressInMemory s.ic → wellFormed i = true →
    Effect i s t → P t
  command : ∀ (c : Command) (s t : State), P s → CommandCase c s t → P t

theorem StepKeeps.step {P : State → Prop} (hP : StepKeeps P) {s t : State} (hs : P s) (h : step s = .next t) : P t := by
  by_cases hcycle : hostQuiet s ∧ s.status = .running
  · obtain ⟨hq, hr⟩ := hcycle
    have hs' := hP.takeHost (hostRest s) s hs
    rcases quiet_step_cases hq hr h with ⟨-, rfl⟩ | ⟨i, hic, hd, he⟩
    · exact hP.fetchFault _ hs' hr
    · have hlatch := hP.fetch _ hs' hic (decode_ok_iff.mp hd).1
      exact hP.execute i _ t hlatch hr hic (decode_wellFormed hd) he
  · rcases other_step_cases hcycle h with rfl | ⟨c, rest, -, rfl⟩
    · exact hP.takeHost _ s hs
    · exact hP.command c _ _ (hP.takeHost rest s hs) (hostMove_case c _)

end Sys2Proof.Machine
end

section
/-! PROOFS. The invariants (10_state.md sections 2 to 5, 20_memory.md section 1): each is kept by every part of a step,
and within them a step always answers a next state. -/

namespace Sys2Proof.Machine

/-! ### Words -/

/-- A word written anywhere leaves 100 words. -/
theorem words_valid_write {m : Memory} (a : Nat) {v : Int} (hm : ∀ b < 100, validWord (Memory.read m b))
    (hv : validWord v) : ∀ b < 100, validWord (Memory.read (Memory.write m a v) b) := by
  intro b hb
  rw [read_write]
  split
  · exact hv
  · exact hm b hb

theorem words_valid_empty : ∀ b < 100, validWord (Memory.read [] b) := fun b _ => by rw [read_empty]; decide

theorem wordInvariant_effect {i : Instr} {s t : State} (hs : wordInvariant s) (he : Effect i s t) :
    wordInvariant t := by
  obtain ⟨hacc, hir, hmem⟩ := hs
  cases he with
  | raised | advanced | branched | halted => exact ⟨hacc, hir, hmem⟩
  | committed n v _ hv => exact ⟨hv, hir, hmem⟩
  | stored n => exact ⟨hacc, hir, words_valid_write n.toNat hmem hacc⟩
  | consumed n v _ _ _ hv => exact ⟨hacc, hir, words_valid_write n.toNat hmem hv⟩

theorem wordInvariant_command {c : Command} {s t : State} (hs : wordInvariant s) (hc : CommandCase c s t) :
    wordInvariant t := by
  obtain ⟨hacc, hir, hmem⟩ := hs
  have hzero : validWord 0 := by decide
  cases hc with
  | ignored | finished | failed => exact ⟨hacc, hir, hmem⟩
  | reset => exact ⟨hzero, hzero, words_valid_empty⟩
  | loadStarted => exact ⟨hacc, hir, words_valid_empty⟩
  | wordLoaded v _ hv => exact ⟨hacc, hir, words_valid_write s.loadAddr hmem hv⟩
  | runStarted => exact ⟨hzero, hzero, hmem⟩

theorem wordInvariant_stepKeeps : StepKeeps wordInvariant where
  takeHost _ _ hs := hs
  fetchFault _ hs _ := hs
  fetch _ hs _ hw := ⟨hs.1, hw, hs.2.2⟩
  execute _ _ _ hs _ _ _ he := wordInvariant_effect hs he
  command _ _ _ hs hc := wordInvariant_command hs hc

/-! ### Registers -/

/-- A branch target is the operand of a well-formed instruction (30_encoding.md R60). -/
theorem operandInRange_of_branch {i : Instr} {n : Int} (hi : i = .br n ∨ i = .brneg n ∨ i = .brzero n)
    (hwf : wellFormed i = true) : operandInRange n := by
  rcases hi with rfl | rfl | rfl <;> exact of_decide_eq_true hwf

theorem registerInvariant_effect {i : Instr} {s t : State} (hs : registerInvariant s) (hic : addressInMemory s.ic)
    (hwf : wellFormed i = true) (he : Effect i s t) : registerInvariant t := by
  obtain ⟨hrange, hrest⟩ := hs
  have hnext : 0 ≤ s.ic + 1 ∧ s.ic + 1 ≤ 100 := by omega
  cases he with
  | raised | halted => exact ⟨hrange, hrest⟩
  | advanced | committed | stored | consumed => exact ⟨hnext, hrest⟩
  | branched n hi =>
    have hn := operandInRange_of_branch hi hwf
    exact ⟨⟨hn.1, hn.2.trans (by decide)⟩, hrest⟩

theorem registerInvariant_reset : registerInvariant State.reset := by decide

theorem registerInvariant_command {c : Command} {s t : State} (hs : registerInvariant s) (hc : CommandCase c s t) :
    registerInvariant t := by
  cases hc with
  | ignored | loadStarted | finished | failed | wordLoaded => exact hs
  | reset | runStarted => exact registerInvariant_reset

theorem registerInvariant_stepKeeps : StepKeeps registerInvariant where
  takeHost _ _ hs := hs
  fetchFault _ hs _ := hs
  fetch _ hs _ hw := ⟨hs.1, split_of_valid hw⟩
  execute _ _ _ hs _ hic hwf he := registerInvariant_effect hs hic hwf he
  command _ _ _ hs hc := registerInvariant_command hs hc

/-! ### The input cursor -/

/-- READ advances the cursor only over an element that is there (41_io.md R72). -/
theorem incur_lt_of_inValue {s : State} {v : Int} (h : inValue s = some v) : s.incur < s.inputs.length :=
  (List.getElem?_eq_some_iff.mp h).1

theorem cursorInvariant_effect {i : Instr} {s t : State} (hs : cursorInvariant s) (he : Effect i s t) :
    cursorInvariant t := by
  cases he with
  | raised | advanced | committed | stored | branched | halted => exact hs
  | consumed n v _ _ hval => exact incur_lt_of_inValue hval

theorem cursorInvariant_command {c : Command} {s t : State} (hs : cursorInvariant s) (hc : CommandCase c s t) :
    cursorInvariant t := by
  cases hc with
  | ignored | loadStarted | finished | failed | wordLoaded => exact hs
  | reset | runStarted => exact Nat.zero_le _

theorem cursorInvariant_stepKeeps : StepKeeps cursorInvariant where
  takeHost _ _ hs := hs
  fetchFault _ hs _ := hs
  fetch _ hs _ _ := hs
  execute _ _ _ hs _ _ _ he := cursorInvariant_effect hs he
  command _ _ _ hs hc := cursorInvariant_command hs hc

/-! ### Memory and the load in progress -/

theorem memoryInvariant_iff_of_not_loading {s : State} (h : s.status ≠ .loading) :
    memoryInvariant s ↔ Memory.wf s.mem = true ∧ s.loadAddr = 0 ∧ s.loadIndex = 0 := by
  simp [memoryInvariant, h]

/-- The entry of an error during a run leaves memory and the loader's counters. -/
theorem memoryInvariant_enterFault {s : State} (e : RunError) (hs : memoryInvariant s) (hr : s.status = .running) :
    memoryInvariant (enterFault e s) := by
  have hkept := (memoryInvariant_iff_of_not_loading (by simp [hr])).mp hs
  exact (memoryInvariant_iff_of_not_loading (by simp)).mpr hkept

theorem memoryInvariant_effect {i : Instr} {s t : State} (hs : memoryInvariant s) (hr : s.status = .running)
    (he : Effect i s t) : memoryInvariant t := by
  have hnot : s.status ≠ .loading := by simp [hr]
  obtain ⟨hwf, hload⟩ := (memoryInvariant_iff_of_not_loading hnot).mp hs
  cases he with
  | advanced | committed | branched => exact hs
  | raised n e => exact memoryInvariant_enterFault e hs hr
  | halted => exact (memoryInvariant_iff_of_not_loading (by simp)).mpr ⟨hwf, hload⟩
  | stored n _ hn =>
    exact (memoryInvariant_iff_of_not_loading (by simpa using hnot)).mpr ⟨wf_write s.acc hwf (by omega), hload⟩
  | consumed n v _ hn =>
    exact (memoryInvariant_iff_of_not_loading (by simpa using hnot)).mpr ⟨wf_write v hwf (by omega), hload⟩

/-- The accepted word goes to `k`, so what lies above the new `k` is still 0. -/
theorem memoryInvariant_loadAccept {s : State} (v : Int) (hs : memoryInvariant s) (hl : s.status = .loading)
    (hk : s.loadAddr ≠ 100) : memoryInvariant (loadAccept v s) := by
  obtain ⟨hwf, hloading, -⟩ := hs
  obtain ⟨heq, hle, hzeros⟩ := hloading hl
  refine ⟨wf_write v hwf (by omega), fun _ => ⟨congrArg (· + 1) heq, by simp; omega, fun a ha hka => ?_⟩, ?_⟩
  · rw [loadAccept_loadAddr] at hka
    rw [loadAccept_mem, read_write_other s.mem v (by omega)]
    exact hzeros a ha (by omega)
  · intro hnot
    exact absurd hl hnot

theorem memoryInvariant_command {c : Command} {s t : State} (hs : memoryInvariant s) (hc : CommandCase c s t) :
    memoryInvariant t := by
  cases hc with
  | ignored => exact hs
  | reset => exact (memoryInvariant_iff_of_not_loading (by simp [hostReset])).mpr ⟨wf_empty, rfl, rfl⟩
  | loadStarted => exact ⟨wf_empty, fun _ => ⟨rfl, by simp, fun a _ _ => read_empty a⟩, fun hnot => absurd rfl hnot⟩
  | finished | failed => exact (memoryInvariant_iff_of_not_loading (by simp)).mpr ⟨hs.1, rfl, rfl⟩
  | wordLoaded v _ _ hl hk => exact memoryInvariant_loadAccept v hs hl hk
  | runStarted xs _ hr =>
    have hcounters := loadCounters_of_ready hs hr
    exact (memoryInvariant_iff_of_not_loading (by simp)).mpr ⟨hs.1, hcounters⟩

theorem memoryInvariant_stepKeeps : StepKeeps memoryInvariant where
  takeHost _ _ hs := hs
  fetchFault _ hs hr := memoryInvariant_enterFault _ hs hr
  fetch _ hs _ _ := hs
  execute _ _ _ hs hr _ _ he := memoryInvariant_effect hs hr he
  command _ _ _ hs hc := memoryInvariant_command hs hc

/-! ### The fault record -/

/-- Outside FAULTED and LOAD_FAILED the record is empty (10_state.md R26). -/
theorem recordInvariant_iff_of_errorFree {s : State} (h : errorFree s) :
    recordInvariant s ↔ s.faultKind = .noFault ∧ s.loadCause = .noCause ∧ s.faultLine = 0 := by
  obtain ⟨hf, hl⟩ := h
  simp only [recordInvariant, runtimeKind, hf, hl, false_iff, ne_eq, not_not, not_and, not_false_eq_true,
    forall_true_left]
  constructor
  · rintro ⟨hkind, hload, hcause, hline⟩
    exact ⟨by_contra fun h => hload (hkind h), hcause, hline⟩
  · rintro ⟨hkind, hcause, hline⟩
    simp [hkind, hcause, hline]

theorem errorFree_of_running {s : State} (hr : s.status = .running) : errorFree s := by simp [errorFree, hr]

theorem recordInvariant_enterFault {s : State} (e : RunError) (hs : recordInvariant s) (hr : s.status = .running) :
    recordInvariant (enterFault e s) := by
  obtain ⟨-, hcause, hline⟩ := (recordInvariant_iff_of_errorFree (errorFree_of_running hr)).mp hs
  simp [recordInvariant, runtimeKind, hcause, hline]

theorem recordInvariant_effect {i : Instr} {s t : State} (hs : recordInvariant s) (hr : s.status = .running)
    (he : Effect i s t) : recordInvariant t := by
  cases he with
  | advanced | committed | stored | consumed | branched => exact hs
  | raised n e => exact recordInvariant_enterFault e hs hr
  | halted =>
    have hempty := (recordInvariant_iff_of_errorFree (errorFree_of_running hr)).mp hs
    exact (recordInvariant_iff_of_errorFree (by simp [errorFree])).mpr hempty

theorem recordInvariant_command {c : Command} {s t : State} (hs : recordInvariant s) (hc : CommandCase c s t) :
    recordInvariant t := by
  cases hc with
  | ignored | wordLoaded => exact hs
  | reset => exact (recordInvariant_iff_of_errorFree (by simp [errorFree, hostReset])).mpr ⟨rfl, rfl, rfl⟩
  | loadStarted | runStarted => exact (recordInvariant_iff_of_errorFree (by simp [errorFree])).mpr ⟨rfl, rfl, rfl⟩
  | finished hl =>
    have hempty := (recordInvariant_iff_of_errorFree (by simp [errorFree, hl])).mp hs
    exact (recordInvariant_iff_of_errorFree (by simp [errorFree])).mpr hempty
  | failed cause _ hcause => simp [recordInvariant, runtimeKind, hcause]

theorem recordInvariant_stepKeeps : StepKeeps recordInvariant where
  takeHost _ _ hs := hs
  fetchFault _ hs hr := recordInvariant_enterFault _ hs hr
  fetch _ hs _ _ := hs
  execute _ _ _ hs hr _ _ he := recordInvariant_effect hs hr he
  command _ _ _ hs hc := recordInvariant_command hs hc

/-! ### A step within the invariants -/

/-- A cell of memory holds a word, so the fetch decodes it and the model does not stop (log entry 5). -/
theorem exists_step_of_words {s : State} (hmem : ∀ a < 100, validWord (Memory.read s.mem a)) :
    ∃ t, step s = .next t := by
  rcases hostQuiet_or_command s with hq | ⟨c, rest, hc⟩
  · rw [step_quiet hq]
    by_cases hr : s.status = .running
    · rw [coreMove_running (s := setHost (hostRest s) s) hr]
      by_cases hic : addressInMemory s.ic
      · have hw := hmem s.ic.toNat (by omega)
        rw [fetchThen_inside (s := setHost (hostRest s) s) hic (decode_of_valid hw)]
        exact (exec_effect _ _).imp fun _ ht => ht.1
      · exact ⟨_, fetchThen_outside (s := setHost (hostRest s) s) hic exec⟩
    · exact ⟨_, coreMove_not_running (s := setHost (hostRest s) s) hr⟩
  · exact ⟨_, step_command hc⟩

end Sys2Proof.Machine

namespace Sys2Proof

open Sys2Proof.Machine

/-- Settles O40: the fetch latches a word of memory, every result is checked before it is committed or stored, and the
loader accepts words only. -/
theorem everyStepKeepsTheWordInvariant : Obligations.EveryStepKeepsTheWordInvariant := fun _ _ hs h =>
  wordInvariant_stepKeeps.step hs h

/-- Settles O41: a cycle that is fetched starts at an address of memory and advances by 1 or branches to a two-digit
operand, and the latched fields split the word exactly. -/
theorem everyStepKeepsTheRegisterInvariant : Obligations.EveryStepKeepsTheRegisterInvariant := fun _ _ hs h =>
  registerInvariant_stepKeeps.step hs h

/-- Settles O42: a run writes inside memory and leaves the loader's counters at 0, and an accepted word moves `k` and
`i` over the cell it fills. -/
theorem everyStepKeepsTheMemoryInvariant : Obligations.EveryStepKeepsTheMemoryInvariant := fun _ _ hs h =>
  memoryInvariant_stepKeeps.step hs h

/-- Settles O43: a run, a load and READY have an empty record, which only an error's entry and a failing load write. -/
theorem everyStepKeepsTheFaultRecord : Obligations.EveryStepKeepsTheFaultRecord := fun _ _ hs h =>
  recordInvariant_stepKeeps.step hs h

/-- Settles O44: the word invariant gives the next state, and each of the five invariants is kept by the step. -/
theorem machineNeverStopsWithinItsInvariant : Obligations.MachineNeverStopsWithinItsInvariant := by
  rintro s ⟨hword, hreg, hcur, hmem, hrec⟩
  have ⟨_, _, hcells⟩ := hword
  obtain ⟨t, ht⟩ := exists_step_of_words hcells
  exact ⟨t, ht, wordInvariant_stepKeeps.step hword ht, registerInvariant_stepKeeps.step hreg ht,
    cursorInvariant_stepKeeps.step hcur ht, memoryInvariant_stepKeeps.step hmem ht,
    recordInvariant_stepKeeps.step hrec ht⟩

/-- Settles O45: an empty memory reads 0, no load is in progress in IDLE, and its record is empty. -/
theorem resetMeetsTheInvariant : Obligations.ResetMeetsTheInvariant := by
  refine ⟨⟨by decide, by decide, words_valid_empty⟩, registerInvariant_reset, Nat.zero_le _, ?_, ?_⟩
  · exact (memoryInvariant_iff_of_not_loading (by decide)).mpr ⟨wf_empty, rfl, rfl⟩
  · exact (recordInvariant_iff_of_errorFree (by decide)).mpr ⟨rfl, rfl, rfl⟩

end Sys2Proof
end

section
/-! PROOFS. READ, LOAD, DIV, HALT and UNMAPPED (41_io.md R74, 42_load_store.md R76, 43_arithmetic.md R82, 44_control.md
R87, R88): the words of their opcodes and what each answers; and the address check of the data ports (20_memory.md
R41). -/

namespace Sys2Proof.Machine

/-! ### READ, in the order of its checks (R74) -/

theorem exec_read_exhausted {s : State} (h : inValue s = none) (n : Int) :
    exec (.read n) s = .next (enterFault (.inputExhausted s.ic) s) := by
  simp only [exec, execRead, h, raise_eq]

theorem exec_read_overflow {s : State} {v : Int} (h : inValue s = some v) (hv : ¬ validWord v) (n : Int) :
    exec (.read n) s = .next (enterFault (.wordOverflow v) s) := by
  simp only [exec, execRead, h, if_neg hv, raise_eq]

theorem exec_read_available {s : State} {v : Int} (h : inValue s = some v) (hv : validWord v) (n : Int) :
    exec (.read n) s = withStored n v s (fun t => advance (inConsume t)) := by
  simp only [exec, execRead, h, if_pos hv]

theorem inValue_eq_none {s : State} (h : s.inputs.length ≤ s.incur) : inValue s = none :=
  List.getElem?_eq_none h

/-! ### LOAD and DIV -/

theorem exec_load {n : Int} (hn : addressInMemory n) (s : State) :
    exec (.load n) s = checkAndCommit (Memory.read s.mem n.toNat) s := withOperand_inside hn s _

/-- R82: the divisor is tested before dividing. -/
theorem exec_div {n : Int} (hn : addressInMemory n) (s : State) :
    exec (.div n) s = if Memory.read s.mem n.toNat = 0 then raise (.divisionByZero s.ic) s
      else checkAndCommit (tdiv s.acc (Memory.read s.mem n.toNat)) s := withOperand_inside hn s _

/-- R82's derivation: a quotient is no larger in magnitude than its dividend, so that of a word is a word. -/
theorem validWord_tdiv {a : Int} (ha : validWord a) (b : Int) : validWord (tdiv a b) := by
  have hmag : (tdiv a b).natAbs = a.natAbs / b.natAbs := by
    rw [tdiv_eq_library, Int.natAbs_tdiv]
    rfl
  have hle : a.natAbs / b.natAbs ≤ a.natAbs := Nat.div_le_self _ _
  omega

/-! ### Operands outside memory (R41) -/

/-- The five committing instructions read their operand first. -/
theorem exec_commits_outside {i : Instr} {n : Int} (hi : commits i n) (hn : ¬ addressInMemory n) (s : State) :
    exec i s = raise (.addressBounds n) s := by
  rcases hi with rfl | rfl | rfl | rfl | rfl <;> exact withOperand_outside hn s _

theorem exec_store_outside {n : Int} (hn : ¬ addressInMemory n) (s : State) :
    exec (.store n) s = raise (.addressBounds n) s := withStored_outside hn s.acc s advance

end Sys2Proof.Machine

namespace Sys2Proof

open Sys2Proof.Machine

/-- Settles O15: `1000 + n` is the word of opcode 10 and operand `n`; both of READ's checks pass, and so does the
address check. -/
theorem readStoresTheNextInput : Obligations.ReadStoresTheNextInput := by
  intro n v s hn hin hv
  refine ⟨decode_wordFor_read hn, ?_⟩
  rw [exec_read_available hin hv, withStored_inside hn]
  rfl

/-- Settles O16: past the end of the stream there is no element to check, and an element that is no word fails the
second check. -/
theorem readErrorsInOrder : Obligations.ReadErrorsInOrder := fun n _ =>
  ⟨fun hend => exec_read_exhausted (inValue_eq_none hend) n, fun _ hin hv => exec_read_overflow hin hv n⟩

/-- Settles O18: `2000 + n` is the word of opcode 20 and operand `n`, and LOAD checks and commits the memory word. -/
theorem loadTakesTheMemoryWord : Obligations.LoadTakesTheMemoryWord := fun _ s hn =>
  ⟨decode_wordFor_load hn, exact_or_raises_of_exec_eq (exec_load hn s)⟩

/-- Settles O22: `3200 + n` is the word of opcode 32 and operand `n`; DIV tests the divisor, then checks and commits the
quotient, which is a word when ACC is. -/
theorem divTruncatesOrRaises : Obligations.DivTruncatesOrRaises := by
  intro n s hn
  have hquot : Memory.read s.mem n.toNat ≠ 0 →
      exec (.div n) s = checkAndCommit (tdiv s.acc (Memory.read s.mem n.toNat)) s := fun hb => by
    rw [exec_div hn, if_neg hb]
  refine ⟨decode_wordFor_div hn, fun hb => ?_, fun hb hacc => ?_, fun hb hq => ?_⟩
  · rw [exec_div hn, if_pos hb]
    rfl
  · rw [hquot hb, checkAndCommit_valid (validWord_tdiv hacc _), tdiv_eq_library]
    rfl
  · rw [hquot hb, checkAndCommit_overflow hq]
    rfl

/-- Settles O27: `4300 + n` is the word of opcode 43 and operand `n`, a word of R88 is unmapped, and both end the
run. -/
theorem haltAndUnmappedOnlyEndTheRun : Obligations.HaltAndUnmappedOnlyEndTheRun :=
  ⟨fun n s hn => ⟨decode_wordFor_halt hn, exec_halt n s⟩,
    fun w s hw => ⟨decode_of_unmappedWord hw, exec_unmapped w s⟩⟩

/-- Settles O28: each accessing instruction comes to its address check, READ after its two own checks have passed. -/
theorem operandOutsideMemoryRaises : Obligations.OperandOutsideMemoryRaises := by
  intro n s hn
  have hcommits := fun i (hi : commits i n) => exec_commits_outside hi hn s
  refine ⟨hcommits _ (.inl rfl), exec_store_outside hn s, hcommits _ (.inr (.inl rfl)),
    hcommits _ (.inr (.inr (.inl rfl))), hcommits _ (.inr (.inr (.inr (.inl rfl)))),
    hcommits _ (.inr (.inr (.inr (.inr rfl)))), fun v hin hv => ?_⟩
  rw [exec_read_available hin hv, withStored_outside hn, raise_eq]

end Sys2Proof
end

section
/-! PROOFS. What each group of instructions changes and leaves unchanged (10_state.md section 6), from the ways an
instruction leaves the state. -/

namespace Sys2Proof.Machine

/-! ### The ways of one group -/

/-- LOAD and the ALU commit a word to ACC and advance, or raise. -/
theorem Effect.of_commits {i : Instr} {n : Int} {s t : State} (hi : commits i n) (he : Effect i s t) :
    (∃ v, t = setIc (s.ic + 1) (setAcc v s)) ∨ ∃ e, t = enterFault e s := by
  cases he with
  | raised _ e => exact .inr ⟨e, rfl⟩
  | committed _ v => exact .inl ⟨v, rfl⟩
  | advanced _ h | branched _ h => rcases h with rfl | rfl | rfl <;> simp [commits] at hi
  | stored _ h | consumed _ _ h => simp [h, commits] at hi
  | halted h => rcases hi with rfl | rfl | rfl | rfl | rfl <;> simp [endsRun] at h

/-- STORE writes ACC to its operand and advances, or raises. -/
theorem Effect.of_store {n : Int} {s t : State} (he : Effect (.store n) s t) :
    (addressInMemory n ∧ t = setIc (s.ic + 1) (setWord n.toNat s.acc s)) ∨ ∃ e, t = enterFault e s := by
  cases he with
  | raised _ e => exact .inr ⟨e, rfl⟩
  | stored _ h hn =>
    cases h
    exact .inl ⟨hn, rfl⟩
  | committed _ _ h | advanced _ h | branched _ h => simp [commits] at h
  | consumed _ _ h | halted h => cases h

/-- READ writes an input to its operand and advances, the cursor too, or raises. -/
theorem Effect.of_read {n : Int} {s t : State} (he : Effect (.read n) s t) :
    (addressInMemory n ∧ ∃ v, t = setIc (s.ic + 1) (inConsume (setWord n.toNat v s))) ∨ ∃ e, t = enterFault e s := by
  cases he with
  | raised _ e => exact .inr ⟨e, rfl⟩
  | consumed _ v h hn =>
    cases h
    exact .inl ⟨hn, v, rfl⟩
  | committed _ _ h | advanced _ h | branched _ h => simp [commits] at h
  | stored _ h | halted h => cases h

/-- WRITE and the branches only move the counter, HALT and UNMAPPED only end the run. -/
theorem Effect.of_not_accesses {i : Instr} {s t : State} (hi : ∀ n, ¬ accesses i n) (he : Effect i s t) :
    (endsRun i = false ∧ ∃ a, t = setIc a s) ∨ (endsRun i = true ∧ t = setHalted s) := by
  cases he with
  | raised n _ h => exact absurd h (hi n)
  | committed n _ h => exact absurd (.inr (.inr h)) (hi n)
  | stored n h => exact absurd (.inr (.inl h)) (hi n)
  | consumed n _ h => exact absurd (.inl h) (hi n)
  | advanced _ h | branched _ h => rcases h with rfl | rfl | rfl <;> exact .inl ⟨rfl, _, rfl⟩
  | halted h => exact .inr ⟨h, rfl⟩

end Sys2Proof.Machine

namespace Sys2Proof

open Sys2Proof.Machine

/-- Settles O29: a committed result writes ACC and IC, an error's entry STATUS and FAULT_KIND. -/
theorem loadAndArithmeticFrame : Obligations.LoadAndArithmeticFrame := by
  intro n i s t hi h
  rcases (effect_of_exec h).of_commits hi with ⟨v, rfl⟩ | ⟨e, rfl⟩
  · simp
  · simp [runtimeKind]

/-- Settles O30: what is stored goes to the operand's cell, the cursor moves in a completed READ only, and an error's
entry writes STATUS and FAULT_KIND. -/
theorem storingFrame : Obligations.StoringFrame := by
  rintro n i s t (rfl | rfl) h
  · rcases (effect_of_exec h).of_store with ⟨hn, rfl⟩ | ⟨e, rfl⟩
    · refine ⟨fun a ha => read_write_toNat_other s.mem hn.1 s.acc ha, ?_⟩
      simp
    · simp [runtimeKind]
  · rcases (effect_of_exec h).of_read with ⟨hn, v, rfl⟩ | ⟨e, rfl⟩
    · refine ⟨fun a ha => read_write_toNat_other s.mem hn.1 v ha, ?_⟩
      simp
    · simp [runtimeKind]

/-- Settles O31: none of the six accesses memory, so each writes IC alone or STATUS alone. -/
theorem nonstoringControlFrame : Obligations.NonstoringControlFrame := by
  intro n i s t hi h
  have hnot : ∀ m, ¬ accesses i m := by
    intro m
    rcases hi with rfl | rfl | rfl | rfl | rfl | rfl <;> simp [accesses, commits]
  rcases (effect_of_exec h).of_not_accesses hnot with ⟨hends, a, rfl⟩ | ⟨hends, rfl⟩
  · simp [hends]
  · simp [hends]

end Sys2Proof
end

section
/-! PROOFS. Cycles (40_cycle.md, 60_exceptions.md sections 1 and 2): when the core moves, how a run ends, and what a
cycle writes. -/

namespace Sys2Proof.Machine

/-! ### The core's step -/

/-- Nothing but the host's list changes when the core makes no step (log entries 3 and 17). -/
theorem step_quiet_not_running {s : State} (hq : hostQuiet s) (hr : s.status ≠ .running) :
    step s = .next (setHost (hostRest s) s) := by
  rw [step_quiet hq, coreMove_not_running (s := setHost (hostRest s) s) hr]

theorem step_quiet_running {s : State} (hq : hostQuiet s) (hr : s.status = .running) :
    step s = fetchThen (setHost (hostRest s) s) exec := by
  rw [step_quiet hq, coreMove_running (s := setHost (hostRest s) s) hr]

/-- The state in which the execute phase of a cycle finds the machine: the fetched word and its fields are latched. -/
def fetched (s : State) : State := latch (Memory.read s.mem s.ic.toNat) (setHost (hostRest s) s)

theorem step_fetched {s : State} {i : Instr} (hq : hostQuiet s) (hr : s.status = .running)
    (hic : addressInMemory s.ic) (hd : decode (Memory.read s.mem s.ic.toNat) = .ok i) :
    step s = exec i (fetched s) := by
  rw [step_quiet_running hq hr, fetchThen_inside (s := setHost (hostRest s) s) hic hd]
  rfl

theorem step_counter_outside {s : State} (hq : hostQuiet s) (hr : s.status = .running) (hic : ¬ addressInMemory s.ic) :
    step s = .next (enterFault (.addressBounds s.ic) (setHost (hostRest s) s)) := by
  rw [step_quiet_running hq hr, fetchThen_outside (s := setHost (hostRest s) s) hic]
  rfl

/-! ### How an instruction leaves STATUS -/

theorem endsRun_of_accesses {i : Instr} {n : Int} (hi : accesses i n) : endsRun i = false := by
  rcases hi with rfl | rfl | rfl | rfl | rfl | rfl | rfl <;> rfl

/-- An instruction that ends the run only sets STATUS to HALTED; any other goes on or raises. -/
theorem Effect.endsRun_cases {i : Instr} {s t : State} (he : Effect i s t) :
    (endsRun i = true ∧ t = setHalted s) ∨
      (endsRun i = false ∧ (t.status = s.status ∨ ∃ e, t = enterFault e s)) := by
  cases he with
  | raised n e h => exact .inr ⟨endsRun_of_accesses h, .inr ⟨e, rfl⟩⟩
  | committed n v h => exact .inr ⟨endsRun_of_accesses (.inr (.inr h)), .inl rfl⟩
  | stored n h => exact .inr ⟨endsRun_of_accesses (.inr (.inl h)), .inl rfl⟩
  | consumed n v h => exact .inr ⟨endsRun_of_accesses (.inl h), .inl rfl⟩
  | advanced n h | branched n h => rcases h with rfl | rfl | rfl <;> exact .inr ⟨rfl, .inl rfl⟩
  | halted h => exact .inl ⟨h, rfl⟩

theorem Effect.status {i : Instr} {s t : State} (he : Effect i s t) (hr : s.status = .running) :
    t.status = .running ∨ t.status = .halted ∨ t.status = .faulted := by
  rcases he.endsRun_cases with ⟨-, rfl⟩ | ⟨-, hkept | ⟨e, rfl⟩⟩
  · exact .inr (.inl rfl)
  · exact .inl (hkept.trans hr)
  · exact .inr (.inr rfl)

/-- During a run only an error's entry leaves FAULTED. -/
theorem Effect.eq_enterFault {i : Instr} {s t : State} (he : Effect i s t) (hr : s.status = .running)
    (hf : t.status = .faulted) : ∃ e, t = enterFault e s := by
  rcases he.endsRun_cases with ⟨-, rfl⟩ | ⟨-, hkept | hfault⟩
  · cases hf
  · exact absurd (hf.symm.trans (hkept.trans hr)) (by decide)
  · exact hfault

/-! ### How a command enters RUNNING -/

/-- A command that leaves RUNNING in a machine that did not run is an accepted run start. -/
theorem CommandCase.runStart_of_running {c : Command} {s t : State} (hc : CommandCase c s t)
    (hs : s.status ≠ .running) (ht : t.status = .running) : s.status = .ready ∧ ∃ xs, c = .runStart xs := by
  cases hc with
  | ignored => exact absurd ht hs
  | runStarted xs hxs hr => exact ⟨hr, xs, hxs⟩
  | reset | loadStarted | finished | failed => cases ht
  | wordLoaded v _ _ hl => exact absurd (hl.symm.trans ht) (by decide)

end Sys2Proof.Machine

namespace Sys2Proof

open Sys2Proof.Machine

/-- Settles O11: the state after fetch and decode is `fetched s`. -/
theorem stepRunsTheDecodedInstruction : Obligations.StepRunsTheDecodedInstruction := fun _ _ hq hr hic hd =>
  step_fetched hq hr hic hd

/-- Settles O12: the address check of the fetch fails, and the error's entry writes STATUS and FAULT_KIND. -/
theorem counterOutsideMemoryFaultsTheFetch : Obligations.CounterOutsideMemoryFaultsTheFetch := by
  intro s hq hr hic
  exact step_counter_outside hq hr (by omega)

/-- Settles O13: the core moves in RUNNING alone; of the commands only run start enters it; and a cycle goes on, halts or
raises. -/
theorem cyclesOnlyWhileRunning : Obligations.CyclesOnlyWhileRunning := by
  refine ⟨fun s hq hr => step_quiet_not_running hq hr, fun s t h hs ht => ?_, fun s t hq hr h => ?_⟩
  · rcases other_step_cases (fun hcycle => hs hcycle.2) h with rfl | ⟨c, rest, hhost, rfl⟩
    · exact absurd ht hs
    · obtain ⟨hready, xs, rfl⟩ := (hostMove_case c (setHost rest s)).runStart_of_running hs ht
      exact ⟨hready, xs, rest, hhost⟩
  · rcases quiet_step_cases hq hr h with ⟨-, rfl⟩ | ⟨i, -, -, he⟩
    · exact .inr (.inr rfl)
    · exact he.status hr

/-- Settles O14: the decoded instruction answers a next state; one that ends the run sets STATUS alone, any other leaves
RUNNING or FAULTED. -/
theorem onlyHaltAndUnmappedEndARunHalted : Obligations.OnlyHaltAndUnmappedEndARunHalted := by
  intro s i hq hr hic hd
  obtain ⟨t, ht, he⟩ := exec_effect i (fetched s)
  refine ⟨t, (step_fetched hq hr hic hd).trans ht, ?_⟩
  rcases he.endsRun_cases with ⟨hends, rfl⟩ | ⟨hends, hother⟩
  · exact ⟨iff_of_true rfl hends, fun _ => rfl⟩
  · have hnot : t.status ≠ .halted := by
      rcases hother with hkept | ⟨e, rfl⟩
      · simp [hkept, fetched, hr]
      · simp
    exact ⟨iff_of_false hnot (by simp [hends]), fun hh => absurd hh hnot⟩

/-- Settles O32: both kinds of failing cycle end in an error's entry, after the fetch or in its place. -/
theorem failingCycleChangesOnlyTheRecord : Obligations.FailingCycleChangesOnlyTheRecord := by
  intro s t hq hr h hf
  rcases quiet_step_cases hq hr h with ⟨hic, rfl⟩ | ⟨i, hic, -, he⟩
  · have hnot : ¬ (0 ≤ s.ic ∧ s.ic ≤ 99) := hic
    simp [runtimeKind, hnot]
  · obtain ⟨e, rfl⟩ := he.eq_enterFault hr hf
    have hnot : ¬ (s.ic < 0 ∨ 99 < s.ic) := by omega
    simp [runtimeKind, hnot]

end Sys2Proof
end

section
/-! PROOFS. Which steps write memory, ACC, INCUR and IC (10_state.md sections 2 to 4, 60_exceptions.md section 1). -/

namespace Sys2Proof.Machine

theorem Effect.read_mem {i : Instr} {s t : State} (he : Effect i s t) {a : Nat}
    (h : Memory.read t.mem a ≠ Memory.read s.mem a) : i = .store a ∨ i = .read a := by
  have written : ∀ {n : Int} (v : Int), addressInMemory n →
      Memory.read (Memory.write s.mem n.toNat v) a ≠ Memory.read s.mem a → n = a := fun {n} v hn hne =>
    by_contra fun hna => hne (read_write_toNat_other s.mem hn.1 v (Ne.symm hna))
  cases he with
  | raised | advanced | committed | branched | halted => exact absurd rfl h
  | stored n hi hn => exact .inl (written s.acc hn h ▸ hi)
  | consumed n v hi hn => exact .inr (written v hn h ▸ hi)

theorem CommandCase.read_mem {c : Command} {s t : State} (hc : CommandCase c s t) {a : Nat}
    (h : Memory.read t.mem a ≠ Memory.read s.mem a) : c = .loadStart ∨ c = .reset ∨ ∃ tok, c = .token tok := by
  cases hc with
  | ignored | finished | failed | runStarted => exact absurd rfl h
  | reset hc => exact .inr (.inl hc)
  | loadStarted hc => exact .inl hc
  | wordLoaded v hc => exact .inr (.inr ⟨_, hc⟩)

theorem Effect.commits_of_acc {i : Instr} {s t : State} (he : Effect i s t) (h : t.acc ≠ s.acc) :
    ∃ n, commits i n := by
  cases he with
  | committed n v hi => exact ⟨n, hi⟩
  | raised | advanced | stored | consumed | branched | halted => exact absurd rfl h

theorem Effect.read_of_incur {i : Instr} {s t : State} (he : Effect i s t) (h : t.incur ≠ s.incur) :
    t.incur = s.incur + 1 ∧ ∃ n, i = .read n := by
  cases he with
  | consumed n v hi => exact ⟨rfl, n, hi⟩
  | raised | advanced | committed | stored | branched | halted => exact absurd rfl h

/-- A cycle leaves IC, advances it by 1 with STATUS unchanged, or branches to an address of memory. -/
theorem Effect.ic {i : Instr} {s t : State} (he : Effect i s t) (hwf : wellFormed i = true) :
    t.ic = s.ic ∨ (t.ic = s.ic + 1 ∧ t.status = s.status) ∨ addressInMemory t.ic := by
  cases he with
  | raised | halted => exact .inl rfl
  | advanced | committed | stored | consumed => exact .inr (.inl ⟨rfl, rfl⟩)
  | branched n hi => exact .inr (.inr (operandInRange_of_branch hi hwf))

end Sys2Proof.Machine

namespace Sys2Proof

open Sys2Proof.Machine

/-- Settles O34: in a cycle the cell is the operand of STORE or READ; of the commands only three write memory. -/
theorem onlyStoreReadAndTheHostWriteMemory : Obligations.OnlyStoreReadAndTheHostWriteMemory := by
  intro s t a h hne
  by_cases hcycle : hostQuiet s ∧ s.status = .running
  · obtain ⟨hq, hr⟩ := hcycle
    rcases quiet_step_cases hq hr h with ⟨-, rfl⟩ | ⟨i, -, hd, he⟩
    · exact absurd rfl hne
    · refine .inl ⟨hq, hr, ?_⟩
      rcases he.read_mem hne with rfl | rfl
      · exact .inl hd
      · exact .inr hd
  · rcases other_step_cases hcycle h with rfl | ⟨c, rest, hhost, rfl⟩
    · exact absurd rfl hne
    · rw [hhost, List.head?_cons]
      rcases (hostMove_case c (setHost rest s)).read_mem hne with rfl | rfl | ⟨tok, rfl⟩
      · exact .inr (.inl rfl)
      · exact .inr (.inr (.inl rfl))
      · exact .inr (.inr (.inr ⟨tok, rfl⟩))

/-- Settles O35: only a committed result writes ACC and only a completed READ moves the cursor; outside RUNNING the core
changes neither. -/
theorem writersOfAccumulatorAndCursor : Obligations.WritersOfAccumulatorAndCursor := by
  intro s t hq h
  by_cases hr : s.status = .running
  · rcases quiet_step_cases hq hr h with ⟨-, rfl⟩ | ⟨i, -, hd, he⟩
    · exact ⟨absurd rfl, absurd rfl⟩
    · refine ⟨fun hne => ?_, fun hne => ?_⟩
      · obtain ⟨n, hi⟩ := he.commits_of_acc hne
        refine ⟨n, ?_⟩
        rcases hi with rfl | rfl | rfl | rfl | rfl <;> simp [hd]
      · obtain ⟨hinc, n, rfl⟩ := he.read_of_incur hne
        exact ⟨hinc, n, hd⟩
  · rw [step_quiet_not_running hq hr] at h
    cases h
    exact ⟨absurd rfl, absurd rfl⟩

/-- Settles O36: IC leaves [0, 99] only by the advance from 99, and an instruction that advances keeps STATUS. -/
theorem counterLeavesMemoryOnlyFromTheLastAddress : Obligations.CounterLeavesMemoryOnlyFromTheLastAddress := by
  intro s t hq hr hic h
  rcases quiet_step_cases hq hr h with ⟨hout, -⟩ | ⟨i, -, hd, he⟩
  · exact absurd hic hout
  · rcases he.ic (decode_wellFormed hd) with hkept | ⟨hnext, hstatus⟩ | hin
    · exact .inl (hkept ▸ hic)
    · rw [latch_ic, setHost_ic] at hnext
      have hrun : t.status = .running := hstatus.trans hr
      by_cases hlast : s.ic = 99
      · exact .inr ⟨hlast, by omega, hrun⟩
      · exact .inl (by omega)
    · exact .inl hin

end Sys2Proof
end

section
/-! PROOFS. The host's commands one by one (70_reset_and_hazards.md R105 to R107, 20_memory.md R33 to R39): what an
accepted one answers, and that one out of sequence has no effect (the spec's decision D25). -/

namespace Sys2Proof.Machine

theorem step_ignored_command {s : State} {c : Command} {rest : List HostInput} (h : s.host = .command c :: rest)
    (ha : accepted c s.status = false) : step s = .next (setHost rest s) := by
  rw [step_command h, hostMove_not_accepted (s := setHost rest s) ha]

theorem step_reset {s : State} {rest : List HostInput} (h : s.host = .command .reset :: rest) :
    step s = .next (setHost rest State.reset) :=
  step_accepted_command h rfl

theorem step_endOfSource {s : State} {rest : List HostInput} (h : s.host = .command .endOfSource :: rest)
    (hl : s.status = .loading) : step s = .next (loadFinish (setHost rest s)) :=
  step_accepted_command h (accepted_endOfSource.mpr hl)

theorem step_unreadable {s : State} {rest : List HostInput} (h : s.host = .command .unreadable :: rest)
    (hl : s.status = .loading) : step s = .next (loadFail .sourceUnreadable (setHost rest s)) :=
  step_accepted_command h (accepted_unreadable.mpr hl)

/-- R34: the sentinel finishes the load. -/
theorem step_sentinel {s : State} {rest : List HostInput} (h : s.host = .command (.token (.int (-99999))) :: rest)
    (hl : s.status = .loading) : step s = .next (loadFinish (setHost rest s)) :=
  step_token h hl

theorem step_word {s : State} {v : Int} {rest : List HostInput} (h : s.host = .command (.token (.int v)) :: rest)
    (hl : s.status = .loading) (hv : validWord v) (hk : s.loadAddr ≠ 100) :
    step s = .next (loadAccept v (setHost rest s)) := by
  rw [step_token h hl, loadToken_word hv, setHost_loadAddr, if_neg hk]

/-- R37: the word past address 99. -/
theorem step_word_past_memory {s : State} {v : Int} {rest : List HostInput}
    (h : s.host = .command (.token (.int v)) :: rest) (hl : s.status = .loading) (hv : validWord v)
    (hk : s.loadAddr = 100) : step s = .next (loadFail .tooLong (setHost rest s)) := by
  rw [step_token h hl, loadToken_word hv, setHost_loadAddr, if_pos hk]

/-- Only a reset and a load start are accepted in a terminal STATUS (60_exceptions.md R95, R107). -/
theorem not_accepted_of_terminal {c : Command} {st : Status} (hst : st = .halted ∨ st = .faulted ∨ st = .loadFailed)
    (hreset : c ≠ .reset) (hstart : c ≠ .loadStart) : accepted c st = false := by
  cases c with
  | reset => exact absurd rfl hreset
  | loadStart => exact absurd rfl hstart
  | token | endOfSource | unreadable | runStart => rcases hst with rfl | rfl | rfl <;> rfl

end Sys2Proof.Machine

namespace Sys2Proof

open Sys2Proof.Machine

/-- Settles O46: a reset is accepted in every STATUS. -/
theorem resetClearsEverything : Obligations.ResetClearsEverything := by
  intro s rest h
  refine ⟨setHost rest State.reset, step_reset h, fun a => ?_, ?_⟩
  · rw [setHost_mem, reset_mem, read_empty]
  · simp [setHost]

/-- Settles O49: each signal is accepted while LOADING, and a word fits while `k` is below 100. -/
theorem loaderTokenBySignal : Obligations.LoaderTokenBySignal := by
  intro s rest hl
  refine ⟨?_, fun h => step_unreadable h hl, fun v h hv => ⟨fun hk => ?_, fun hk => ?_⟩⟩
  · rintro (h | h)
    · exact step_sentinel h hl
    · exact step_endOfSource h hl
  · exact step_word_past_memory h hl hv hk
  · exact step_word h hl hv hk.ne

/-- Settles O52: run start is accepted in READY. -/
theorem runStartBeginsAtAddressZero : Obligations.RunStartBeginsAtAddressZero := fun _ _ _ hr h =>
  step_runStart h hr

/-- Settles O53: the hypotheses are the negations of the conditions under which R107 accepts each command. -/
theorem commandOutOfSequenceHasNoEffect : Obligations.CommandOutOfSequenceHasNoEffect := by
  intro s c rest h hreset hstart hrun hload
  refine step_ignored_command h (Bool.eq_false_iff.mpr fun ha => ?_)
  cases c with
  | reset => exact hreset rfl
  | loadStart =>
    obtain ⟨hnl, hnr⟩ := accepted_loadStart.mp ha
    exact (hstart rfl).elim hnl hnr
  | token t => exact hload (.inl ⟨t, rfl⟩) (accepted_token.mp ha)
  | endOfSource => exact hload (.inr (.inl rfl)) (accepted_endOfSource.mp ha)
  | unreadable => exact hload (.inr (.inr rfl)) (accepted_unreadable.mp ha)
  | runStart xs => exact hrun ⟨xs, rfl⟩ (accepted_runStart.mp ha)

/-- Settles O33: a quiet host leaves the core without a step, and any other command is not accepted. -/
theorem onlyResetOrLoadLeavesATerminalStatus : Obligations.OnlyResetOrLoadLeavesATerminalStatus := by
  intro s hst hreset hstart
  have hnr : s.status ≠ .running := by rcases hst with h | h | h <;> simp [h]
  rcases hostQuiet_or_command s with hq | ⟨c, rest, h⟩
  · exact step_quiet_not_running hq hnr
  · rw [h, List.head?_cons] at hreset hstart
    have ha : accepted c s.status = false :=
      not_accepted_of_terminal hst (fun hc => hreset (by rw [hc])) (fun hc => hstart (by rw [hc]))
    rw [step_ignored_command h ha, h]
    rfl

end Sys2Proof
end

section
/-! PROOFS. A whole source (20_memory.md R32 to R39): load start, a list of words at the addresses from 0 on, and what
ends the load. -/

namespace Sys2Proof.Machine

/-- The state after the loader has accepted the words `ws` one after another. -/
def loadWords (ws : List Int) (s : State) : State := ws.foldl (fun t w => loadAccept w t) s

@[simp] theorem loadWords_nil (s : State) : loadWords [] s = s := rfl

@[simp] theorem loadWords_cons (w : Int) (ws : List Int) (s : State) :
    loadWords (w :: ws) s = loadWords ws (loadAccept w s) := rfl

/-- Accepting words writes memory and the two counters, nothing else. -/
theorem loadWords_eq (ws : List Int) (s : State) :
    loadWords ws s = { s with mem := (loadWords ws s).mem, loadAddr := s.loadAddr + ws.length,
                              loadIndex := s.loadIndex + ws.length } := by
  induction ws generalizing s with
  | nil => rfl
  | cons w ws ih =>
    rw [loadWords_cons, ih]
    simp [loadAccept, Nat.add_assoc, Nat.add_comm 1]

/-- The words stand in order from the address `k` at which the loader was. -/
theorem read_loadWords (ws : List Int) (s : State) (a : Nat) :
    Memory.read (loadWords ws s).mem a =
      if s.loadAddr ≤ a then ws.getD (a - s.loadAddr) (Memory.read s.mem a) else Memory.read s.mem a := by
  induction ws generalizing s with
  | nil => simp
  | cons w ws ih =>
    rw [loadWords_cons, ih, loadAccept_loadAddr, loadAccept_mem, read_write]
    rcases Nat.lt_trichotomy a s.loadAddr with hlt | heq | hgt
    · rw [if_neg (by omega), if_neg (by omega), if_neg (by omega)]
    · simp [heq]
    · obtain ⟨d, rfl⟩ : ∃ d, a = s.loadAddr + 1 + d := ⟨a - (s.loadAddr + 1), by omega⟩
      have hd : s.loadAddr + 1 + d - s.loadAddr = d + 1 := by omega
      rw [if_pos (by omega), if_neg (by omega), if_pos (by omega), hd, Nat.add_sub_cancel_left,
        List.getD_cons_succ]

theorem wf_loadWords (ws : List Int) {s : State} (hwf : Memory.wf s.mem = true) (hk : s.loadAddr + ws.length ≤ 100) :
    Memory.wf (loadWords ws s).mem = true := by
  induction ws generalizing s with
  | nil => exact hwf
  | cons w ws ih =>
    rw [List.length_cons] at hk
    exact ih (s := loadAccept w s) (wf_write w hwf (by omega)) (by rw [loadAccept_loadAddr]; omega)

/-- The steps that load words which fit in memory. -/
theorem run_loadWords (ws : List Int) {s : State} {rest : List HostInput} (hl : s.status = .loading)
    (hvalid : ∀ w ∈ ws, validWord w) (hk : s.loadAddr + ws.length ≤ 100)
    (hhost : s.host = ws.map (fun w => .command (.token (.int w))) ++ rest) (n : Nat) :
    Host.Core.run core (ws.length + n) s = Host.Core.run core n (loadWords ws (setHost rest s)) := by
  induction ws generalizing s with
  | nil =>
    have hrest : s.host = rest := hhost
    rw [loadWords_nil, ← hrest, setHost_self, List.length_nil, Nat.zero_add]
  | cons w ws ih =>
    rw [List.length_cons] at hk
    have hw := hvalid w List.mem_cons_self
    have hstep := step_word hhost hl hw (by omega)
    have hrest := fun v hv => hvalid v (List.mem_cons_of_mem w hv)
    have hfits : s.loadAddr + 1 + ws.length ≤ 100 := by omega
    rw [List.length_cons, Nat.add_right_comm]
    exact (run_core_of_next hstep _).trans (ih hl hrest hfits rfl)

/-- The state of a load from its start up to and including the words `ws`, with `rest` left of the host's inputs. -/
def loaded (ws : List Int) (rest : List HostInput) (s : State) : State := loadWords ws (loadStart (setHost rest s))

/-- The steps from load start to the end of the words. -/
theorem run_load (ws : List Int) {s : State} {rest : List HostInput} (hl : s.status ≠ .loading)
    (hr : s.status ≠ .running) (hvalid : ∀ w ∈ ws, validWord w) (hlen : ws.length ≤ 100)
    (hhost : s.host = .command .loadStart :: (ws.map (fun w => .command (.token (.int w))) ++ rest)) (n : Nat) :
    Host.Core.run core (ws.length + n + 1) s = Host.Core.run core n (loaded ws rest s) := by
  rw [run_core_of_next (step_loadStart hhost hl hr),
    run_loadWords ws rfl hvalid (by rw [loadStart_loadAddr]; omega) rfl]
  rfl

theorem loaded_eq (ws : List Int) (rest : List HostInput) (s : State) :
    loaded ws rest s =
      { loadStart (setHost rest s) with mem := (loaded ws rest s).mem, loadAddr := ws.length,
                                        loadIndex := ws.length } := by
  rw [loaded, loadWords_eq]
  simp

theorem loaded_status (ws : List Int) (rest : List HostInput) (s : State) : (loaded ws rest s).status = .loading := by
  rw [loaded_eq]
  rfl

theorem loaded_host (ws : List Int) (rest : List HostInput) (s : State) : (loaded ws rest s).host = rest := by
  rw [loaded_eq]
  rfl

theorem loaded_loadAddr (ws : List Int) (rest : List HostInput) (s : State) :
    (loaded ws rest s).loadAddr = ws.length := by
  rw [loaded_eq]

theorem loaded_loadIndex (ws : List Int) (rest : List HostInput) (s : State) :
    (loaded ws rest s).loadIndex = ws.length := by
  rw [loaded_eq]

theorem read_loaded (ws : List Int) (rest : List HostInput) (s : State) (a : Nat) :
    Memory.read (loaded ws rest s).mem a = ws.getD a 0 := by
  rw [loaded, read_loadWords]
  simp

theorem wf_loaded {ws : List Int} (hlen : ws.length ≤ 100) (rest : List HostInput) (s : State) :
    Memory.wf (loaded ws rest s).mem = true :=
  wf_loadWords ws wf_empty (by rw [loadStart_loadAddr]; omega)

/-- One more step of a run whose first steps are known. -/
theorem run_last {s t u : State} {n : Nat} (hrun : Host.Core.run core n s = Host.Core.run core 1 t)
    (hstep : step t = .next u) : Host.Core.run core n s = .next u := by
  rw [hrun, run_core_of_next hstep]
  rfl

/-- The four ways to fail a load, each with its cause (R31, R35 to R37). -/
theorem step_failing {s : State} {bad : Command} {cause : LoadCause} {rest : List HostInput}
    (hhost : s.host = .command bad :: rest) (hl : s.status = .loading)
    (hbad : (bad = .unreadable ∧ cause = .sourceUnreadable) ∨ (bad = .token .malformed ∧ cause = .notAnInteger) ∨
      (∃ v, bad = .token (.int v) ∧ v ≠ -99999 ∧ ¬ validWord v ∧ cause = .outOfRange) ∨
      (∃ v, bad = .token (.int v) ∧ validWord v ∧ s.loadAddr = 100 ∧ cause = .tooLong)) :
    step s = .next (loadFail cause (setHost rest s)) := by
  rcases hbad with ⟨rfl, rfl⟩ | ⟨rfl, rfl⟩ | ⟨v, rfl, hs, hv, rfl⟩ | ⟨v, rfl, hv, hk, rfl⟩
  · exact step_unreadable hhost hl
  · rw [step_token hhost hl, loadToken_malformed]
  · rw [step_token hhost hl, loadToken_outOfRange hs hv]
  · exact step_word_past_memory hhost hl hv hk

end Sys2Proof.Machine

namespace Sys2Proof

open Sys2Proof.Machine

/-- Settles O50: after the words the machine is `loaded`, from which the end of the source and the sentinel both finish
the load. -/
theorem wholeSourceLoads : Obligations.WholeSourceLoads := by
  intro s ws last rest hl hr hvalid hlen hlast hhost
  have hl' := loaded_status ws (.command last :: rest) s
  have hhost' := loaded_host ws (.command last :: rest) s
  have hstep : step (loaded ws (.command last :: rest) s) =
      .next (loadFinish (setHost rest (loaded ws (.command last :: rest) s))) := by
    rcases hlast with rfl | rfl
    · exact step_endOfSource hhost' hl'
    · exact step_sentinel hhost' hl'
  refine ⟨_, run_last (run_load ws hl hr hvalid hlen hhost 1) hstep, rfl, read_loaded ws _ s, wf_loaded hlen _ s, rfl,
    ?_⟩
  rw [loaded_eq]
  simp

/-- Settles O51: after the words the machine is `loaded`, with `k` and `i` the number of words, and the bad token fails
the load there. -/
theorem firstBadTokenEndsTheLoad : Obligations.FirstBadTokenEndsTheLoad := by
  intro s ws bad cause rest hl hr hvalid hlen hbad hhost
  have haddr := loaded_loadAddr ws (.command bad :: rest) s
  have hindex := loaded_loadIndex ws (.command bad :: rest) s
  have hstep := step_failing (loaded_host ws (.command bad :: rest) s) (loaded_status ws _ s) (haddr.symm ▸ hbad)
  exact ⟨_, run_last (run_load ws hl hr hvalid hlen hhost 1) hstep, rfl, rfl, rfl, hindex, read_loaded ws _ s, rfl⟩

end Sys2Proof
end

section
/-! PROOFS. Two runs of cycles (20_memory.md section 3, 40_cycle.md's rule on runs without end) and the word placed
under the next fetch (log entries 2 and 3). -/

namespace Sys2Proof.Machine

/-- A cycle of a machine that the host leaves alone: the word `w` at IC is latched and its instruction executed. -/
theorem step_alone {s : State} {w : Int} {i : Instr} (hhost : s.host = []) (hr : s.status = .running)
    (hic : addressInMemory s.ic) (hw : Memory.read s.mem s.ic.toNat = w) (hd : decode w = .ok i) :
    step s = exec i (latch w s) := by
  rw [step_fetched (.inl hhost) hr hic (hw.symm ▸ hd), fetched, hw, hostRest, hhost, List.tail_nil, ← hhost,
    setHost_self]

/-! ### The placed word -/

theorem fetchSlot_inside (s : State) : addressInMemory (fetchSlot s) := by
  unfold fetchSlot
  split
  · assumption
  · decide

theorem fetchSlot_of_inside {s : State} (h : addressInMemory s.ic) : fetchSlot s = s.ic := if_pos h

/-- The table's word is the word of a decoded instruction. -/
theorem decode_of_decodeTableWord {nbits w : Nat} {i : Instr} (h : decodeTableWord nbits w = some i) :
    decode (wordOfBits w) = .ok i := by
  unfold decodeTableWord at h
  split at h
  · next j hj => rw [hj, Option.some.inj h]
  · cases h

/-- The placed word is what the next step fetches, and it leaves the host's list as it was. -/
theorem step_placeFetchWord {w : Int} {i : Instr} (hd : decode w = .ok i) (s : State) :
    step (placeFetchWord w s) = exec i (latch w (setHost s.host (placeFetchWord w s))) := by
  have hcell : Memory.read (placeFetchWord w s).mem (placeFetchWord w s).ic.toNat = w := read_write_same _ _ w
  have hfetch := step_fetched (s := placeFetchWord w s) (.inr rfl) rfl (fetchSlot_inside s) (hcell.symm ▸ hd)
  rw [hfetch, fetched, hcell]
  rfl

end Sys2Proof.Machine

namespace Sys2Proof

open Sys2Proof.Machine

/-- Settles O37: the STORE leaves ACC at IC + 1, where the next cycle fetches it. -/
theorem storeToTheNextAddressIsFetchedNext : Obligations.StoreToTheNextAddressIsFetchedNext := by
  intro s j hhost hr hic hd hacc
  have hnext : addressInMemory (s.ic + 1) := by omega
  have hstore := (step_alone hhost hr (by omega) rfl hd).trans (exec_store hnext _)
  have hcell := read_write_same s.mem (s.ic + 1).toNat s.acc
  exact ⟨_, hstore, rfl, rfl, step_alone hhost hr hnext hcell hacc⟩

/-- Settles O39: by induction on the number of steps, each of which branches to where it was fetched. -/
theorem branchToItselfRunsForever : Obligations.BranchToItselfRunsForever := by
  intro s k hhost hr hic hcell
  induction k generalizing s with
  | zero => exact ⟨s, rfl, hr, rfl, rfl, rfl, rfl⟩
  | succ k ih =>
    have hbr := (step_alone hhost hr hic hcell (decode_wordFor_br hic)).trans (exec_br _ _)
    obtain ⟨t, hrun, hkept⟩ := ih (setIc s.ic (latch (4000 + s.ic) s)) hhost hr hic hcell
    exact ⟨t, (run_core_of_next hbr k).trans hrun, hkept⟩

/-- Settles O54: the state of the execute phase is the placed one with the word latched. -/
theorem placedWordRunsNext : Obligations.PlacedWordRunsNext := by
  intro s nbits w i h
  have hslot := fetchSlot_inside s
  refine ⟨_, step_placeFetchWord (decode_of_decodeTableWord h) s, rfl, rfl, rfl, hslot, fetchSlot_of_inside, rfl, rfl,
    rfl, rfl, rfl, read_write_same _ _ _, fun a ha => read_write_toNat_other s.mem hslot.1 _ ha⟩

end Sys2Proof
end

section
/-! PROOFS. Source text (20_memory.md R30): the lines of a text, and the lines that are decimal literals. -/

namespace Sys2Proof.Machine

/-! ### Blanks around a literal (R30.2) -/

theorem isBlank_iff {c : Char} : isBlank c = true ↔ c = ' ' ∨ c = '\t' := by
  rw [isBlank, Bool.or_eq_true, decide_eq_true_iff, decide_eq_true_iff]

theorem dropWhile_blanks {blanks core : List Char} (tail : List Char) (hblanks : ∀ c ∈ blanks, isBlank c = true)
    (hcore : ∀ c ∈ core, isBlank c = false) (hne : core ≠ []) :
    (blanks ++ (core ++ tail)).dropWhile isBlank = core ++ tail := by
  rw [List.dropWhile_append_of_pos hblanks]
  cases core with
  | nil => exact absurd rfl hne
  | cons c cs => exact List.dropWhile_cons_of_neg (by rw [hcore c List.mem_cons_self]; decide)

/-- What is trimmed on both sides is blank. -/
theorem exists_blanks_around (line : List Char) :
    ∃ before after, line = before ++ trimBlanks line ++ after ∧ (∀ c ∈ before, isBlank c = true) ∧
      ∀ c ∈ after, isBlank c = true := by
  refine ⟨line.takeWhile isBlank, ((line.dropWhile isBlank).reverse.takeWhile isBlank).reverse, ?_, fun c hc => ?_,
    fun c hc => ?_⟩
  · rw [trimBlanks, List.append_assoc, ← List.reverse_append, List.takeWhile_append_dropWhile, List.reverse_reverse,
      List.takeWhile_append_dropWhile]
  · exact List.mem_takeWhile_imp hc
  · exact List.mem_takeWhile_imp (List.mem_reverse.mp hc)

theorem trimBlanks_between {before core after : List Char} (hbefore : ∀ c ∈ before, isBlank c = true)
    (hafter : ∀ c ∈ after, isBlank c = true) (hcore : ∀ c ∈ core, isBlank c = false) (hne : core ≠ []) :
    trimBlanks (before ++ core ++ after) = core := by
  have hafter' : ∀ c ∈ after.reverse, isBlank c = true := fun c hc => hafter c (List.mem_reverse.mp hc)
  have hcore' : ∀ c ∈ core.reverse, isBlank c = false := fun c hc => hcore c (List.mem_reverse.mp hc)
  have hright := dropWhile_blanks [] hafter' hcore' (mt List.reverse_eq_nil_iff.mp hne)
  rw [List.append_nil] at hright
  rw [trimBlanks, List.append_assoc, dropWhile_blanks after hbefore hcore hne, List.reverse_append, hright,
    List.reverse_reverse]

/-! ### Decimal literals (R30.3) -/

/-- A decimal digit, by its code. -/
abbrev isDigit (c : Char) : Prop := 48 ≤ c.toNat ∧ c.toNat ≤ 57

/-- The number that the digits `cs` continue from `x`. -/
def valueFrom (x : Int) (cs : List Char) : Int := cs.foldl (fun (x : Int) c => 10 * x + ((c.toNat : Int) - 48)) x

theorem digitsFrom_cons_digit {c : Char} (hc : isDigit c) (v : Nat) (cs : List Char) :
    digitsFrom v (c :: cs) = digitsFrom (10 * v + (c.toNat - 48)) cs := by
  rw [digitsFrom, digitValue, if_pos hc]

theorem digitsFrom_cons_other {c : Char} (hc : ¬ isDigit c) (v : Nat) (cs : List Char) :
    digitsFrom v (c :: cs) = none := by
  rw [digitsFrom, digitValue, if_neg hc]

/-- A digit's contribution, as the lexer computes it on natural numbers. -/
theorem valueFrom_cons_digit {c : Char} (hc : isDigit c) (v : Nat) (cs : List Char) :
    valueFrom v (c :: cs) = valueFrom ((10 * v + (c.toNat - 48) : Nat) : Int) cs := by
  have hvalue : ((10 * v + (c.toNat - 48) : Nat) : Int) = 10 * v + ((c.toNat : Int) - 48) := by omega
  rw [hvalue]
  rfl

theorem digitsFrom_eq_some_iff {cs : List Char} {v n : Nat} :
    digitsFrom v cs = some n ↔ (∀ c ∈ cs, isDigit c) ∧ (n : Int) = valueFrom v cs := by
  induction cs generalizing v with
  | nil => simp [digitsFrom, valueFrom, eq_comm]
  | cons c cs ih =>
    rw [List.forall_mem_cons]
    by_cases hc : isDigit c
    · rw [digitsFrom_cons_digit hc, ih, valueFrom_cons_digit hc]
      exact and_congr_left' (and_iff_right hc).symm
    · rw [digitsFrom_cons_other hc]
      exact iff_of_false (Option.some_ne_none n).symm fun h => hc h.1.1

theorem naturalLiteral_eq_some_iff {cs : List Char} {n : Nat} :
    naturalLiteral cs = some n ↔ cs ≠ [] ∧ (∀ c ∈ cs, isDigit c) ∧ (n : Int) = valueFrom 0 cs := by
  cases cs with
  | nil => simp [naturalLiteral]
  | cons c cs => exact digitsFrom_eq_some_iff.trans (and_iff_right (List.cons_ne_nil c cs)).symm

/-- Digits have a value of at least 0, the natural number that the lexer reads. -/
theorem exists_valueFrom_eq {cs : List Char} (hcs : ∀ c ∈ cs, isDigit c) (v : Nat) :
    ∃ n : Nat, (n : Int) = valueFrom v cs := by
  induction cs generalizing v with
  | nil => exact ⟨v, rfl⟩
  | cons c cs ih =>
    obtain ⟨hc, hrest⟩ := List.forall_mem_cons.mp hcs
    rw [valueFrom_cons_digit hc]
    exact ih hrest _

/-- The characters `cs` are a decimal number, whose value under the sign `sgn` is `v`. -/
abbrev digitsDenote (sgn : Int) (cs : List Char) (v : Int) : Prop :=
  cs ≠ [] ∧ (∀ c ∈ cs, isDigit c) ∧ v = sgn * valueFrom 0 cs

theorem signedValue_eq_some_iff {sgn v : Int} {cs : List Char} :
    signedValue sgn (naturalLiteral cs) = some v ↔ digitsDenote sgn cs v := by
  have hsigned : signedValue sgn (naturalLiteral cs) = some v ↔
      ∃ n : Nat, naturalLiteral cs = some n ∧ sgn * n = v := by
    cases naturalLiteral cs <;> simp [signedValue]
  rw [hsigned]
  constructor
  · rintro ⟨n, hn, rfl⟩
    obtain ⟨hne, hdigits, hvalue⟩ := naturalLiteral_eq_some_iff.mp hn
    exact ⟨hne, hdigits, by rw [hvalue]⟩
  · rintro ⟨hne, hdigits, rfl⟩
    obtain ⟨n, hn⟩ := exists_valueFrom_eq hdigits 0
    exact ⟨n, naturalLiteral_eq_some_iff.mpr ⟨hne, hdigits, hn⟩, by rw [hn]; rfl⟩

/-! ### The sign -/

theorem integerLiteral_plus (cs : List Char) : integerLiteral ('+' :: cs) = signedValue 1 (naturalLiteral cs) := rfl

theorem integerLiteral_minus (cs : List Char) : integerLiteral ('-' :: cs) = signedValue (-1) (naturalLiteral cs) := rfl

theorem integerLiteral_unsigned {cs : List Char} (hplus : cs.head? ≠ some '+') (hminus : cs.head? ≠ some '-') :
    integerLiteral cs = signedValue 1 (naturalLiteral cs) := by
  cases cs with
  | nil => rfl
  | cons c cs =>
    have hp : c ≠ '+' := fun e => hplus (by rw [e]; rfl)
    have hm : c ≠ '-' := fun e => hminus (by rw [e]; rfl)
    rw [integerLiteral, if_neg hp, if_neg hm]

/-- The first of some digits is no sign. -/
theorem head?_ne_of_digits {cs : List Char} (hcs : ∀ c ∈ cs, isDigit c) {d : Char} (hd : ¬ isDigit d) :
    cs.head? ≠ some d := fun h => hd (hcs d (List.mem_of_mem_head? h))

/-- `[+-]?[0-9]+`: an optional sign and the digits it applies to. -/
theorem integerLiteral_eq_some_iff {cs : List Char} {v : Int} :
    integerLiteral cs = some v ↔
      ∃ sign digits, cs = sign ++ digits ∧ (sign = [] ∨ sign = ['+'] ∨ sign = ['-']) ∧
        digitsDenote (if sign = ['-'] then -1 else 1) digits v := by
  constructor
  · intro h
    by_cases hplus : cs.head? = some '+'
    · obtain ⟨rest, rfl⟩ := List.head?_eq_some_iff.mp hplus
      rw [integerLiteral_plus, signedValue_eq_some_iff] at h
      exact ⟨['+'], rest, rfl, by simp, h⟩
    · by_cases hminus : cs.head? = some '-'
      · obtain ⟨rest, rfl⟩ := List.head?_eq_some_iff.mp hminus
        rw [integerLiteral_minus, signedValue_eq_some_iff] at h
        exact ⟨['-'], rest, rfl, by simp, h⟩
      · rw [integerLiteral_unsigned hplus hminus, signedValue_eq_some_iff] at h
        exact ⟨[], cs, rfl, by simp, h⟩
  · rintro ⟨sign, digits, rfl, rfl | rfl | rfl, h⟩
    · have hplus := head?_ne_of_digits h.2.1 (d := '+') (by decide)
      have hminus := head?_ne_of_digits h.2.1 (d := '-') (by decide)
      rw [List.nil_append, integerLiteral_unsigned hplus hminus]
      exact signedValue_eq_some_iff.mpr h
    · exact (integerLiteral_plus digits).trans (signedValue_eq_some_iff.mpr h)
    · exact (integerLiteral_minus digits).trans (signedValue_eq_some_iff.mpr h)

/-- No character of a literal is a blank. -/
theorem isBlank_eq_false_of_literal {sign digits : List Char} (hsign : sign = [] ∨ sign = ['+'] ∨ sign = ['-'])
    (hdigits : ∀ c ∈ digits, isDigit c) : ∀ c ∈ sign ++ digits, isBlank c = false := by
  intro c hc
  rcases List.mem_append.mp hc with h | h
  · rcases hsign with rfl | rfl | rfl
    · cases h
    · rw [List.mem_singleton.mp h]
      decide
    · rw [List.mem_singleton.mp h]
      decide
  · refine Bool.eq_false_iff.mpr fun hb => ?_
    have hd := hdigits c h
    rcases isBlank_iff.mp hb with rfl | rfl <;> exact absurd hd (by decide)

theorem lineToken_eq_int_iff {line : List Char} {v : Int} :
    lineToken line = .int v ↔ integerLiteral (trimBlanks line) = some v := by
  rw [lineToken]
  cases integerLiteral (trimBlanks line) <;> simp

end Sys2Proof.Machine

namespace Sys2Proof

open Sys2Proof.Machine

/-- Settles O55: the line is trimmed of blanks, and what is left is a literal; a literal between blanks is what trimming
leaves, for it holds no blank itself. -/
theorem lineTokenIsTheDecimalLiteral : Obligations.LineTokenIsTheDecimalLiteral := by
  intro line v
  rw [lineToken_eq_int_iff]
  constructor
  · intro h
    obtain ⟨before, after, hline, hbefore, hafter⟩ := exists_blanks_around line
    obtain ⟨sign, digits, hcore, hsign, hne, hdigits, hv⟩ := integerLiteral_eq_some_iff.mp h
    rw [hcore, ← List.append_assoc] at hline
    exact ⟨before, sign, digits, after, hline, fun c hc => isBlank_iff.mp (hbefore c hc),
      fun c hc => isBlank_iff.mp (hafter c hc), hsign, hne, hdigits, hv⟩
  · rintro ⟨before, sign, digits, after, rfl, hbefore, hafter, hsign, hne, hdigits, hv⟩
    have htrim := trimBlanks_between (fun c hc => isBlank_iff.mpr (hbefore c hc))
      (fun c hc => isBlank_iff.mpr (hafter c hc)) (isBlank_eq_false_of_literal hsign hdigits)
      (List.append_ne_nil_of_right_ne_nil sign hne)
    rw [List.append_assoc before, htrim]
    exact integerLiteral_eq_some_iff.mpr ⟨sign, digits, rfl, hsign, hne, hdigits, hv⟩

/-- Settles O56: by induction on the lines, each of which its own terminator ends. -/
theorem sourceTextSplitsAtLineFeeds : Obligations.SourceTextSplitsAtLineFeeds := by
  intro ls last hls hlast
  induction ls with
  | nil => exact sourceLines_last hlast
  | cons l ls ih =>
    obtain ⟨⟨hl, hend⟩, hrest⟩ := List.forall_mem_cons.mp hls
    obtain ⟨line, crlf⟩ := l
    rw [List.map_cons, List.map_cons, List.flatten_cons, List.append_assoc, List.append_assoc, List.cons_append,
      ← ih hrest]
    cases crlf with
    | false => exact sourceLines_lineFeed _ hl (hend rfl)
    | true => exact sourceLines_returnLineFeed _ hl

end Sys2Proof
end

section
/-! PROOFS. The observation port and the final state (60_exceptions.md R97, R98, 40_cycle.md R70). -/

namespace Sys2Proof.Machine

/-- R25's values in the order of their codes. -/
def statuses : List Status := [.idle, .loading, .ready, .running, .halted, .faulted, .loadFailed]

/-- R26's and R91's kinds in the order of their codes. -/
def faultKinds : List FaultKind :=
  [.noFault, .loadError, .wordOverflowError, .divisionByZeroError, .inputExhaustedError, .addressBoundsError]

/-- R26's causes in the order of their codes. -/
def loadCauses : List LoadCause := [.noCause, .sourceUnreadable, .notAnInteger, .outOfRange, .tooLong]

/-- Codes that give a value's place in a list tell values apart. -/
theorem code_eq_iff {α : Type} {code : α → Nat} {values : List α} (h : ∀ a, values[code a]? = some a) (a b : α) :
    code a = code b ↔ a = b :=
  ⟨fun e => Option.some.inj (by rw [← h a, ← h b, e]), fun e => by rw [e]⟩

theorem status_code_eq_iff (a b : Status) : a.code = b.code ↔ a = b :=
  code_eq_iff (values := statuses) (fun st => by cases st <;> rfl) a b

theorem faultKind_code_eq_iff (a b : FaultKind) : a.code = b.code ↔ a = b :=
  code_eq_iff (values := faultKinds) (fun k => by cases k <;> rfl) a b

theorem loadCause_code_eq_iff (a b : LoadCause) : a.code = b.code ↔ a = b :=
  code_eq_iff (values := loadCauses) (fun c => by cases c <;> rfl) a b

theorem runEnded_iff {s : State} : runEnded s = true ↔ s.status = .halted ∨ s.status = .faulted := by
  rw [runEnded, Bool.or_eq_true, decide_eq_true_iff, decide_eq_true_iff]

end Sys2Proof.Machine

namespace Sys2Proof

open Sys2Proof.Machine

/-- Settles O57: the registers stand in the observation as they are, the words are the 100 reads in order, each code
names one value, and the final state is there when the run has ended. -/
theorem observationShowsTheState : Obligations.ObservationShowsTheState := by
  intro s
  have hst := status_code_eq_iff s.status
  have hk := faultKind_code_eq_iff s.faultKind
  have hc := loadCause_code_eq_iff s.loadCause
  refine ⟨⟨rfl, rfl, rfl, rfl, rfl, rfl, rfl⟩, ⟨words_length s.mem, fun a ha => words_get ha⟩,
    ⟨hst .idle, hst .loading, hst .ready, hst .running, hst .halted, hst .faulted, hst .loadFailed⟩,
    ⟨hk .noFault, hk .loadError, hk .wordOverflowError, hk .divisionByZeroError, hk .inputExhaustedError,
      hk .addressBoundsError⟩,
    ⟨hc .noCause, hc .sourceUnreadable, hc .notAnInteger, hc .outOfRange, hc .tooLong⟩, fun hh hf => ?_,
    fun hended => ?_⟩
  · exact if_neg fun hended => (runEnded_iff.mp hended).elim hh hf
  · exact if_pos (runEnded_iff.mpr hended)

end Sys2Proof
end
